-- ==== Sys2Proof/Word.lean ====
section
/-! DEFINITION. The word types of the engine: pixels, channel fields, dimensions, tables, and the two real
parameters with the bound each carries. -/

namespace Sys2Proof

/-- A byte of host memory, under the byte view of 20_memory.md R45. -/
abbrev Byte := BitVec 8

/-- A pixel: 16 bits, red 15..11, green 10..5, blue 4..0 (30_encoding.md R70). -/
abbrev Pixel := BitVec 16

/-- A dimension, capacity or stride: unsigned, `DIM_BITS` = 16 bits (00_scope.md R7; DESIGN CHOICE to fix the parameter at
the spec's value, log 23). -/
abbrev Dim := BitVec 16

/-- A doubled dimension: `DIM_BITS + 1` bits, so that `2 * w` never wraps (10_state.md R23). -/
abbrev OutDim := BitVec 17

/-- A 1D table of a channel of `n` bits: `2 ^ n` entries, each of the channel's width
(10_state.md R20, 40_lut_builder.md R108; DESIGN CHOICE, log 16). -/
abbrev Table (n : Nat) := Vector (BitVec n) (2 ^ n)

/-- A blend table of a channel of `n` bits, flat: the entry of older sample `i` and newer sample `j` is at
`i * 2 ^ n + j` (20_memory.md R44). -/
abbrev BlendTable (n : Nat) := Vector (BitVec n) (2 ^ n * 2 ^ n)

/-- An effective gamma: "a real number, always at least 1.0" (10_state.md R17), held as a rational
(DESIGN CHOICE, log 1). -/
structure Gamma where
  /-- The number. -/
  val : Rat
  /-- The floor of 40_lut_builder.md R101. -/
  floor : 1 ≤ val
deriving DecidableEq, Repr

/-- An effective ratio: "a real number in [0.5, 1.0]" (10_state.md R18), the weight of the newer sample, held as
a rational (DESIGN CHOICE, log 1). -/
structure Ratio where
  /-- The number. -/
  val : Rat
  /-- The lower bound of 40_lut_builder.md R102. -/
  lower : 1 / 2 ≤ val
  /-- The upper bound of 40_lut_builder.md R102. -/
  upper : val ≤ 1
deriving DecidableEq, Repr

/-- The six tables (10_state.md R20). The `5` tables serve red and blue, the `6` tables green (41_blend_lookup.md
R133). -/
structure Lut where
  forward5 : Table 5
  reverse5 : Table 5
  blend5 : BlendTable 5
  forward6 : Table 6
  reverse6 : Table 6
  blend6 : BlendTable 6
deriving DecidableEq, Repr

end Sys2Proof
end

