-- ==== Sys2Proof/Config.lean ====
section
/-! DEFINITION. What is fixed for every engine (00_scope.md R5, R6), and the free values. The nine parameters of R7 are no
fields here: each is fixed at the value the spec decides (DESIGN CHOICE, log 23). The free values are
constants without a body, which nothing can evaluate. -/

namespace Sys2Proof.Config

/-- `D`, the depth of the frame history (00_scope.md R5). -/
abbrev depth : Nat := 5

/-- `K_LIN` = 12.92, the slope of the linear segment. -/
def kLin : Rat := 1292 / 100

/-- `K_FWD_T` = 0.0031308, the forward threshold. -/
def kFwdT : Rat := 31308 / 10000000

/-- `K_REV_T` = 0.04045, the reverse threshold. -/
def kRevT : Rat := 4045 / 100000

/-- `K_A` = 1.055, the scale of the power segment. -/
def kA : Rat := 1055 / 1000

/-- `K_B` = 0.055, the offset of the power segment. -/
def kB : Rat := 55 / 1000

/-- The default gamma, 2.2 (00_scope.md R6). -/
def defaultGamma : Gamma := ⟨11 / 5, by norm_num⟩

/-- The default ratio, 0.5 (00_scope.md R6). -/
def defaultRatio : Ratio := ⟨1 / 2, by norm_num, by norm_num⟩

/-- The default mode, 2 (00_scope.md R6). -/
def defaultMode : BitVec 2 := 2

/-- A FREE VALUE: the `k`-th pixel of draw `draw`. The contents of the history after a resize
(93_implementation_defined.md U2, log 7) and the latches outside a pixel evaluation (10_state.md R10, R11, log 6)
are drawn from it. -/
opaque freePixel : (draw : Nat) → (k : Nat) → Pixel

/-- A FREE VALUE: the `k`-th coordinate of draw `draw`, for the raster cursor outside a pass (10_state.md R12,
log 6). -/
opaque freeCoord : (draw : Nat) → (k : Nat) → Dim

end Sys2Proof.Config
end

