-- ==== Sys2Proof/Syntax.lean ====
section
/-! DEFINITION. The operations of the engine, one constructor per row of spec/opcode_table.json, each with the
typed operands its rule names (30_encoding.md R81, R82), and the command as the host presents it: an operation code
and a record of operand slots. -/

namespace Sys2Proof

/-- A real of the configuration interface, the non-finite values of a floating-point interface included
(30_encoding.md R75, 45_mode_control.md R216). -/
inductive ConfigReal where
  | finite (q : Rat)
  | nan
  | posInf
  | negInf
deriving DecidableEq, Repr

/-- The configuration record, operand of CONSTRUCT and RELOAD (30_encoding.md R75). -/
structure Cfg where
  gamma : ConfigReal
  ratio : ConfigReal
  mode : Int
  fullbright : Bool
  motionCheck : Bool
deriving DecidableEq, Repr

/-- The render operand record (30_encoding.md R79). The two bases are cell addresses in the host's memory
(DESIGN CHOICE, log 9). -/
structure RenderOperands where
  source : Nat
  sourceW : Dim
  sourceH : Dim
  srcStride : Dim
  dest : Nat
  dstStride : Dim
  capW : Dim
  capH : Dim
deriving DecidableEq, Repr

/-- The six pixels `P[0..5]` of one position: the current one and those of ages 1 to 5 (10_state.md R10). -/
structure Samples where
  p0 : Pixel
  p1 : Pixel
  p2 : Pixel
  p3 : Pixel
  p4 : Pixel
  p5 : Pixel
deriving DecidableEq, Repr

/-- The pair `(dim, i)` of FWDENT and REVENT: `dim` is 32 or 64 and `i` is in `[0, dim)` (40_lut_builder.md
R104). -/
inductive ChannelValue where
  | w5 (i : BitVec 5)
  | w6 (i : BitVec 6)
deriving DecidableEq, Repr

/-- The operands of BLENDENT but for the ratio: older sample `i`, newer sample `j`, and the finished 1D tables of the
same width (40_lut_builder.md R109). -/
inductive BlendEntry where
  | w5 (i j : BitVec 5) (forward reverse : Table 5)
  | w6 (i j : BitVec 6) (forward reverse : Table 6)
deriving DecidableEq, Repr

/-- The operations (30_encoding.md R82). -/
inductive Instr where
  /-- CONSTRUCT, 45_mode_control.md R210. -/
  | construct (cfg : Cfg)
  /-- RELOAD, 45_mode_control.md R212. -/
  | reload (cfg : Cfg)
  /-- TOGGLE, 45_mode_control.md R213. -/
  | toggle
  /-- STATUS, 45_mode_control.md R215. -/
  | status
  /-- RENDER, 44_compositor.md R190. -/
  | render (o : RenderOperands)
  /-- BUILD, 40_lut_builder.md R100. -/
  | build (gamma ratio : Rat)
  /-- CLAMPG, 40_lut_builder.md R101. -/
  | clampg (gamma : Rat)
  /-- CLAMPR, 40_lut_builder.md R102. -/
  | clampr (ratio : Rat)
  /-- FWDENT, 40_lut_builder.md R104. -/
  | fwdent (i : ChannelValue) (g : Gamma)
  /-- REVENT, 40_lut_builder.md R106. -/
  | revent (i : ChannelValue) (g : Gamma)
  /-- BLENDENT, 40_lut_builder.md R109. -/
  | blendent (e : BlendEntry) (r : Ratio)
  /-- RESIZE, 42_history_store.md R151. -/
  | resize (width height : Dim)
  /-- SEED, 42_history_store.md R153. The frame is row-major. -/
  | seed (frame : List Pixel)
  /-- PUSHPX, 42_history_store.md R154. -/
  | pushpx (x y : Dim) (p : Pixel)
  /-- ADVANCE, 42_history_store.md R155. -/
  | advance
  /-- AT, 42_history_store.md R156. -/
  | atAge (age : Nat)
  /-- UNPACK, 41_blend_lookup.md R130. -/
  | unpack (p : Pixel)
  /-- PACK, 41_blend_lookup.md R131. -/
  | pack (r : BitVec 5) (g : BitVec 6) (b : BitVec 5)
  /-- BLEND2, 41_blend_lookup.md R134. -/
  | blend2 (pPrev pCur : Pixel)
  /-- BLEND3, 41_blend_lookup.md R136. -/
  | blend3 (pa pb pc : Pixel)
  /-- OR3, 41_blend_lookup.md R138. -/
  | or3 (pa pb pc : Pixel)
  /-- PURE, 43_pixel_blender.md R170. -/
  | pure (p : Pixel)
  /-- ELIG3, 43_pixel_blender.md R172. -/
  | elig3 (ps : Samples)
  /-- ALT2, 43_pixel_blender.md R173. -/
  | alt2 (p0 p1 p2 : Pixel)
  /-- TWOPATH, 43_pixel_blender.md R174. -/
  | twopath (p0 p1 p2 : Pixel)
  /-- TRIOUT, 43_pixel_blender.md R176. -/
  | triout (p0 p1 p2 : Pixel)
  /-- PIXEL, 43_pixel_blender.md R178. -/
  | pixel (ps : Samples)
  /-- REPLPX, 44_compositor.md R195; `dest` and `dstStride` are those of the render it belongs to
  (DEDUCED, log 11). -/
  | replpx (dest : Nat) (dstStride : Dim) (x y : Dim) (val : Pixel)
  /-- SEEDPASS, 44_compositor.md R194. -/
  | seedpass (o : RenderOperands)
  /-- BLENDPASS, 44_compositor.md R196. -/
  | blendpass (o : RenderOperands)
deriving DecidableEq, Repr

/-- The operand slots that accompany an operation code: "operands are not packed into the word, they accompany it as
the typed values each rule names" (30_encoding.md R81). One slot per operand name of spec/opcode_table.json; an
operation reads the slots its rule names and no other (DESIGN CHOICE, log 2). -/
structure Operands where
  cfg : Cfg
  render : RenderOperands
  gamma : Rat
  ratio : Rat
  index : ChannelValue
  g : Gamma
  entry : BlendEntry
  r : Ratio
  width : Dim
  height : Dim
  frame : List Pixel
  x : Dim
  y : Dim
  p : Pixel
  age : Nat
  red : BitVec 5
  green : BitVec 6
  blue : BitVec 5
  pPrev : Pixel
  pCur : Pixel
  pa : Pixel
  pb : Pixel
  pc : Pixel
  samples : Samples
  val : Pixel
deriving DecidableEq, Repr

/-- Every slot at zero, or at the least value its type has: gamma 1, ratio 1/2. -/
def Operands.zero : Operands where
  cfg := ⟨.finite 0, .finite 0, 0, false, false⟩
  render := ⟨0, 0, 0, 0, 0, 0, 0, 0⟩
  gamma := 0
  ratio := 0
  index := .w5 0
  g := ⟨1, by norm_num⟩
  entry := .w5 0 0 (Vector.replicate _ 0) (Vector.replicate _ 0)
  r := ⟨1 / 2, by norm_num, by norm_num⟩
  width := 0
  height := 0
  frame := []
  x := 0
  y := 0
  p := 0
  age := 0
  red := 0
  green := 0
  blue := 0
  pPrev := 0
  pCur := 0
  pa := 0
  pb := 0
  pc := 0
  samples := ⟨0, 0, 0, 0, 0, 0⟩
  val := 0

/-- A command as the host presents it: the operation word `OP8` and its operands (30_encoding.md R81). -/
structure Command where
  op : BitVec 8
  args : Operands
deriving DecidableEq, Repr

/-- What the host delivers between commands (00_scope.md R3; DESIGN CHOICE, log 3). -/
inductive Input where
  /-- A command, run to completion. -/
  | command (c : Command)
  /-- The host puts pixels into consecutive cells of its own memory, from `cell` on: a source frame, or the
  destination buffer it supplies. -/
  | poke (cell : Nat) (ps : List Pixel)
deriving DecidableEq, Repr

end Sys2Proof
end

