-- ==== Sys2Proof/Machine/Tables.lean ====
section
/-! DEFINITION. The LUT Manager's arithmetic (40_lut_builder.md): clamps, table entries, the tables. All of it is
arithmetic over the real numbers (R103), done exactly: an entry is found by comparing the real value with the
rationals `k - 1/2`, and a power with a rational exponent is compared with a rational by integer powers (log 1). -/

namespace Sys2Proof.Machine

/-- `RND(x) = floor(x + 1/2)`: to the nearest integer, ties upward (40_lut_builder.md R103; the parameter `RND` of
00_scope.md R7, fixed, log 23). -/
def rnd (x : Rat) : Int := (x + 1 / 2).floor

/-- CLAMPG: `max(gamma, 1.0)` (40_lut_builder.md R101). -/
def clampGamma (q : Rat) : Gamma :=
  if h : 1 ≤ q then ⟨q, h⟩ else ⟨1, le_refl 1⟩

/-- CLAMPR: `clamp(ratio, 0.5, 1.0)` (40_lut_builder.md R102). -/
def clampRatio (q : Rat) : Ratio :=
  if lo : 1 / 2 ≤ q then
    if hi : q ≤ 1 then ⟨q, lo, hi⟩ else ⟨1, by norm_num, le_refl 1⟩
  else ⟨1 / 2, le_refl _, by norm_num⟩

/-- `dim - 1` for a channel of `n` bits. -/
def dimPred (n : Nat) : Nat := 2 ^ n - 1

/-- The normalised intensity of index `i`: `c = i / (dim - 1)` (40_lut_builder.md R103). -/
def intensity (n i : Nat) : Rat := (i : Rat) / (dimPred n : Rat)

/-- For `t, b > 0`: `t <= POW(b, p/q)`, decided as `t ^ q <= b ^ p` (40_lut_builder.md R103, log 1; the parameters
`NUMERICS` and `POW` of 00_scope.md R7, fixed, log 23). -/
def atMostPow (t b : Rat) (p q : Nat) : Bool := decide (t ^ q ≤ b ^ p)

/-- `RND(clamp(v, 0, m))` of a real `v` that is known by its comparisons: `reaches k` says `k - 1/2 <= v`. It is the
greatest `k <= m` that `v` reaches, 0 if there is none (40_lut_builder.md R104, R106). -/
def roundClamped (reaches : Nat → Bool) : Nat → Nat
  | 0 => 0
  | m + 1 => if reaches (m + 1) then m + 1 else roundClamped reaches m

/-- The forward entry's value `v` reaches `k`: with `c <= 0.0031308`, `v = 12.92 * c * (dim - 1)`; else
`v = (1.055 * POW(c, 1/g) - 0.055) * (dim - 1)` (40_lut_builder.md R104). -/
def forwardReaches (n i : Nat) (g : Gamma) (k : Nat) : Bool :=
  let c := intensity n i
  let half : Rat := (k : Rat) - 1 / 2
  if c ≤ Config.kFwdT then decide (half ≤ Config.kLin * c * (dimPred n : Rat))
  else atMostPow ((half / (dimPred n : Rat) + Config.kB) / Config.kA) c g.val.den g.val.num.toNat

/-- FWDENT: the forward ("linear-intensity index to gamma-encoded value") entry (40_lut_builder.md R104). -/
def forwardEntry (n i : Nat) (g : Gamma) : Nat :=
  roundClamped (forwardReaches n i g) (dimPred n)

/-- The reverse entry's value `v` reaches `k`: with `c <= 0.04045`, `v = (c / 12.92) * (dim - 1)`; else
`v = POW((c + 0.055) / 1.055, g) * (dim - 1)` (40_lut_builder.md R106). -/
def reverseReaches (n i : Nat) (g : Gamma) (k : Nat) : Bool :=
  let c := intensity n i
  let half : Rat := (k : Rat) - 1 / 2
  if c ≤ Config.kRevT then decide (half ≤ c / Config.kLin * (dimPred n : Rat))
  else atMostPow (half / (dimPred n : Rat)) ((c + Config.kB) / Config.kA) g.val.num.toNat g.val.den

/-- REVENT: the reverse ("gamma-encoded index to linear-intensity value") entry (40_lut_builder.md R106). -/
def reverseEntry (n i : Nat) (g : Gamma) : Nat :=
  roundClamped (reverseReaches n i g) (dimPred n)

/-- The entry of a 1D table at a channel value. -/
def Table.at {n : Nat} (t : Table n) (i : BitVec n) : BitVec n := t[i.toNat]'i.isLt

/-- BLENDENT's index: `RND(reverse[i] * (1 - r) + reverse[j] * r)` (40_lut_builder.md R109). -/
def blendIndex {n : Nat} (reverse : Table n) (r : Ratio) (i j : BitVec n) : Nat :=
  (rnd (((Table.at reverse i).toNat : Rat) * (1 - r.val) + ((Table.at reverse j).toNat : Rat) * r.val)).toNat

/-- BLENDENT: `forward[k]`, `i` the older sample, `j` the newer (40_lut_builder.md R109). -/
def blendEntry {n : Nat} (forward reverse : Table n) (r : Ratio) (i j : BitVec n) : BitVec n :=
  Table.at forward (BitVec.ofNat n (blendIndex reverse r i j))

/-- The vector of the values of `f`. -/
def tabulate {α : Type} (n : Nat) (f : Nat → α) : Vector α n :=
  ⟨((List.range n).map f).toArray, by simp⟩

/-- The forward table of a width. -/
def forwardTable (n : Nat) (g : Gamma) : Table n :=
  tabulate (2 ^ n) fun i => BitVec.ofNat n (forwardEntry n i g)

/-- The reverse table of a width. -/
def reverseTable (n : Nat) (g : Gamma) : Table n :=
  tabulate (2 ^ n) fun i => BitVec.ofNat n (reverseEntry n i g)

/-- The blend table over finished 1D tables: flat index `i * dim + j` (20_memory.md R44, 40_lut_builder.md R100). -/
def blendTable {n : Nat} (forward reverse : Table n) (r : Ratio) : BlendTable n :=
  tabulate (2 ^ n * 2 ^ n) fun k =>
    blendEntry forward reverse r (BitVec.ofNat n (k / 2 ^ n)) (BitVec.ofNat n k)

/-- A flat index of two channel values is inside the table. -/
theorem flatIndex_lt {n : Nat} (i j : BitVec n) : i.toNat * 2 ^ n + j.toNat < 2 ^ n * 2 ^ n := by
  have hi : i.toNat + 1 ≤ 2 ^ n := i.isLt
  have hj := j.isLt
  calc i.toNat * 2 ^ n + j.toNat < i.toNat * 2 ^ n + 2 ^ n := by omega
    _ = (i.toNat + 1) * 2 ^ n := by ring
    _ ≤ 2 ^ n * 2 ^ n := Nat.mul_le_mul_right _ hi

/-- `blend[i][j]`, `i` the previous (older) sample, `j` the current (newer) one (20_memory.md R44). -/
def BlendTable.at {n : Nat} (t : BlendTable n) (i j : BitVec n) : BitVec n :=
  t[i.toNat * 2 ^ n + j.toNat]'(flatIndex_lt i j)

/-- BUILD's six tables for clamped parameters (40_lut_builder.md R100). -/
def buildLut (g : Gamma) (r : Ratio) : Lut where
  forward5 := forwardTable 5 g
  reverse5 := reverseTable 5 g
  blend5 := blendTable (forwardTable 5 g) (reverseTable 5 g) r
  forward6 := forwardTable 6 g
  reverse6 := reverseTable 6 g
  blend6 := blendTable (forwardTable 6 g) (reverseTable 6 g) r

end Sys2Proof.Machine
end

