-- ==== Sys2Proof/Machine/Operands.lean ====
section
/-! DEFINITION. The operand forms: the fields of a pixel, the sanitised configuration, the age, and the addresses,
checks and duties of a render operand record. Nothing here reads the engine's state. -/

namespace Sys2Proof.Machine

/-- The red field, `p[15:11]` (30_encoding.md R71). -/
def redOf (p : Pixel) : BitVec 5 := p.extractLsb' 11 5

/-- The green field, `p[10:5]` (30_encoding.md R71). -/
def greenOf (p : Pixel) : BitVec 6 := p.extractLsb' 5 6

/-- The blue field, `p[4:0]` (30_encoding.md R71). -/
def blueOf (p : Pixel) : BitVec 5 := p.extractLsb' 0 5

/-- PACK: `{R[4:0], G[5:0], B[4:0]}` (41_blend_lookup.md R131). -/
def packPixel (r : BitVec 5) (g : BitVec 6) (b : BitVec 5) : Pixel := r ++ g ++ b

/-- A configuration real: itself if finite, else the default (45_mode_control.md R216, 92_eei_decisions.md D4). -/
def finiteOr : ConfigReal → Rat → Rat
  | .finite q, _ => q
  | .nan, d => d
  | .posInf, d => d
  | .negInf, d => d

/-- The configured mode: itself if 0, 1 or 2, else the default 2 (45_mode_control.md R216, 92_eei_decisions.md D6; the
parameter `MODE_CODES` of 00_scope.md R7, fixed, log 23). -/
def saneMode (m : Int) : BitVec 2 :=
  if m = 0 then 0 else if m = 1 then 1 else if m = 2 then 2 else Config.defaultMode

/-- The gamma of a configuration, sanitised, before its floor (45_mode_control.md R216). -/
def saneGamma (cfg : Cfg) : Rat := finiteOr cfg.gamma Config.defaultGamma.val

/-- The ratio of a configuration, sanitised, before its clamp (45_mode_control.md R216). -/
def saneRatio (cfg : Cfg) : Rat := finiteOr cfg.ratio Config.defaultRatio.val

/-- The ages `at` accepts: 1 to 5 (30_encoding.md R80). -/
def ageOk (age : Nat) : Bool := decide (1 ≤ age) && decide (age ≤ Config.depth)

/-- The positions of a `w` by `h` grid in row-major order, `x` fastest (10_state.md R12, 92_eei_decisions.md
D14). -/
def positions (w h : Nat) : List (Nat × Nat) :=
  (List.range h).flatMap fun y => (List.range w).map fun x => (x, y)

/-- The SRC cell of column `x`, row `y`: `y * src_stride + x` from the base (20_memory.md R41; strides count pixels, the
parameter `STRIDE_UNIT` of 00_scope.md R7, fixed, log 23). -/
def srcCell (o : RenderOperands) (x y : Nat) : Nat := o.source + (y * o.srcStride.toNat + x)

/-- The DST cell of column `u`, row `v`: `v * dst_stride + u` from the base (20_memory.md R42; `STRIDE_UNIT` as in
`srcCell`, log 23). -/
def dstCell (dest : Nat) (stride : Dim) (u v : Nat) : Nat := dest + (v * stride.toNat + u)

/-- The capacity check of step 2 fails: `dest_capacity_w < 2 * source_w` or `dest_capacity_h < 2 * source_h`, the
products taken without wrapping (44_compositor.md R192). -/
def tooSmall (o : RenderOperands) : Bool :=
  decide (o.capW.toNat < 2 * o.sourceW.toNat) || decide (o.capH.toNat < 2 * o.sourceH.toNat)

/-- Host duty 1 on the source: `src_stride >= source_w` (20_memory.md R52). -/
def srcStrideOk (o : RenderOperands) : Bool := decide (o.sourceW.toNat ≤ o.srcStride.toNat)

/-- Host duty 1 on the destination: `dst_stride >= 2 * source_w` (20_memory.md R52). -/
def dstStrideOk (o : RenderOperands) : Bool := decide (2 * o.sourceW.toNat ≤ o.dstStride.toNat)

/-- Cells that SRC holds: `(source_h - 1) * src_stride + source_w`, 0 when a dimension is 0 (20_memory.md R52). -/
def srcExtent (o : RenderOperands) : Nat :=
  if o.sourceW.toNat = 0 ∨ o.sourceH.toNat = 0 then 0
  else (o.sourceH.toNat - 1) * o.srcStride.toNat + o.sourceW.toNat

/-- Cells that DST holds: `(2 * source_h - 1) * dst_stride + 2 * source_w`, 0 when a dimension is 0 (20_memory.md
R52). -/
def dstExtent (o : RenderOperands) : Nat :=
  if o.sourceW.toNat = 0 ∨ o.sourceH.toNat = 0 then 0
  else (2 * o.sourceH.toNat - 1) * o.dstStride.toNat + 2 * o.sourceW.toNat

/-- Host duty 3 is broken: some source row that is read and some destination row that is written share a cell
(20_memory.md R52). -/
def overlaps (o : RenderOperands) : Bool :=
  (List.range o.sourceH.toNat).any fun y =>
    (List.range (2 * o.sourceH.toNat)).any fun v =>
      decide (srcCell o 0 y < dstCell o.dest o.dstStride (2 * o.sourceW.toNat) v) &&
        decide (dstCell o.dest o.dstStride 0 v < srcCell o o.sourceW.toNat y)

end Sys2Proof.Machine
end

