-- ==== Sys2Proof/WellFormed.lean ====
section
/-! DEFINITION. The operand checks that an instruction must pass whatever the state: those of spec/ that name only
operands. An instruction that fails one is refused by its meaning, by name. -/

namespace Sys2Proof

open Machine

/-- The host duties of a pass that can be told from the operands: the strides, and that the cells read and the cells
written are disjoint (20_memory.md R52, duties 1 and 3). -/
def RenderOperands.wellFormed (o : RenderOperands) (writes : Bool) : Bool :=
  srcStrideOk o && (!writes || (dstStrideOk o && !overlaps o))

/-- The operand checks of an instruction: the age of AT is 1 to 5 (42_history_store.md R158), the operands of RENDER,
SEEDPASS and BLENDPASS meet the host duties (20_memory.md R52; RENDER writes DST only when the capacity check
passes). Every other operand is legal at every value of its type. -/
def Instr.wellFormed : Instr → Bool
  | .construct _ => true
  | .reload _ => true
  | .toggle => true
  | .status => true
  | .render o => o.wellFormed (!tooSmall o)
  | .build _ _ => true
  | .clampg _ => true
  | .clampr _ => true
  | .fwdent _ _ => true
  | .revent _ _ => true
  | .blendent _ _ => true
  | .resize _ _ => true
  | .seed _ => true
  | .pushpx _ _ _ => true
  | .advance => true
  | .atAge age => ageOk age
  | .unpack _ => true
  | .pack _ _ _ => true
  | .blend2 _ _ => true
  | .blend3 _ _ _ => true
  | .or3 _ _ _ => true
  | .pure _ => true
  | .elig3 _ => true
  | .alt2 _ _ _ => true
  | .twopath _ _ _ => true
  | .triout _ _ _ => true
  | .pixel _ => true
  | .replpx _ _ _ _ _ => true
  | .seedpass o => o.wellFormed true
  | .blendpass o => o.wellFormed true

end Sys2Proof
end

