-- ==== Sys2Proof/Decode.lean ====
section
/-! DEFINITION. The decoder of the operation word `OP8` and its operand slots, and the encoder (30_encoding.md R81,
R82). -/

namespace Sys2Proof

/-- Why a command is not decoded. -/
inductive DecodeError where
  /-- The code is not in the operation map: "every `op` value not in R82 is reserved" (30_encoding.md R83 a). -/
  | reservedOp (op : BitVec 8)
deriving DecidableEq, Repr

/-- The operation map: the code selects the operation, the operation reads the slots its rule names
(30_encoding.md R82). -/
def decode (c : Command) : Except DecodeError Instr :=
  let a := c.args
  match c.op.toNat with
  | 0x00 => .ok (.construct a.cfg)
  | 0x01 => .ok (.reload a.cfg)
  | 0x02 => .ok .toggle
  | 0x03 => .ok .status
  | 0x04 => .ok (.render a.render)
  | 0x10 => .ok (.build a.gamma a.ratio)
  | 0x11 => .ok (.clampg a.gamma)
  | 0x12 => .ok (.clampr a.ratio)
  | 0x13 => .ok (.fwdent a.index a.g)
  | 0x14 => .ok (.revent a.index a.g)
  | 0x15 => .ok (.blendent a.entry a.r)
  | 0x20 => .ok (.resize a.width a.height)
  | 0x21 => .ok (.seed a.frame)
  | 0x22 => .ok (.pushpx a.x a.y a.p)
  | 0x23 => .ok .advance
  | 0x24 => .ok (.atAge a.age)
  | 0x30 => .ok (.unpack a.p)
  | 0x31 => .ok (.pack a.red a.green a.blue)
  | 0x32 => .ok (.blend2 a.pPrev a.pCur)
  | 0x33 => .ok (.blend3 a.pa a.pb a.pc)
  | 0x34 => .ok (.or3 a.pa a.pb a.pc)
  | 0x35 => .ok (.pure a.p)
  | 0x36 => .ok (.elig3 a.samples)
  | 0x37 => .ok (.alt2 a.samples.p0 a.samples.p1 a.samples.p2)
  | 0x38 => .ok (.twopath a.samples.p0 a.samples.p1 a.samples.p2)
  | 0x39 => .ok (.triout a.samples.p0 a.samples.p1 a.samples.p2)
  | 0x3A => .ok (.pixel a.samples)
  | 0x40 => .ok (.replpx a.render.dest a.render.dstStride a.x a.y a.val)
  | 0x41 => .ok (.seedpass a.render)
  | 0x42 => .ok (.blendpass a.render)
  | _ => .error (.reservedOp c.op)

/-- The command of an instruction: its code and its operands, every other slot at zero. -/
def encode : Instr → Command
  | .construct cfg => ⟨0x00, { Operands.zero with cfg := cfg }⟩
  | .reload cfg => ⟨0x01, { Operands.zero with cfg := cfg }⟩
  | .toggle => ⟨0x02, Operands.zero⟩
  | .status => ⟨0x03, Operands.zero⟩
  | .render o => ⟨0x04, { Operands.zero with render := o }⟩
  | .build gamma ratio => ⟨0x10, { Operands.zero with gamma := gamma, ratio := ratio }⟩
  | .clampg gamma => ⟨0x11, { Operands.zero with gamma := gamma }⟩
  | .clampr ratio => ⟨0x12, { Operands.zero with ratio := ratio }⟩
  | .fwdent i g => ⟨0x13, { Operands.zero with index := i, g := g }⟩
  | .revent i g => ⟨0x14, { Operands.zero with index := i, g := g }⟩
  | .blendent e r => ⟨0x15, { Operands.zero with entry := e, r := r }⟩
  | .resize w h => ⟨0x20, { Operands.zero with width := w, height := h }⟩
  | .seed frame => ⟨0x21, { Operands.zero with frame := frame }⟩
  | .pushpx x y p => ⟨0x22, { Operands.zero with x := x, y := y, p := p }⟩
  | .advance => ⟨0x23, Operands.zero⟩
  | .atAge age => ⟨0x24, { Operands.zero with age := age }⟩
  | .unpack p => ⟨0x30, { Operands.zero with p := p }⟩
  | .pack r g b => ⟨0x31, { Operands.zero with red := r, green := g, blue := b }⟩
  | .blend2 pPrev pCur => ⟨0x32, { Operands.zero with pPrev := pPrev, pCur := pCur }⟩
  | .blend3 pa pb pc => ⟨0x33, { Operands.zero with pa := pa, pb := pb, pc := pc }⟩
  | .or3 pa pb pc => ⟨0x34, { Operands.zero with pa := pa, pb := pb, pc := pc }⟩
  | .pure p => ⟨0x35, { Operands.zero with p := p }⟩
  | .elig3 ps => ⟨0x36, { Operands.zero with samples := ps }⟩
  | .alt2 p0 p1 p2 => ⟨0x37, { Operands.zero with samples := ⟨p0, p1, p2, 0, 0, 0⟩ }⟩
  | .twopath p0 p1 p2 => ⟨0x38, { Operands.zero with samples := ⟨p0, p1, p2, 0, 0, 0⟩ }⟩
  | .triout p0 p1 p2 => ⟨0x39, { Operands.zero with samples := ⟨p0, p1, p2, 0, 0, 0⟩ }⟩
  | .pixel ps => ⟨0x3A, { Operands.zero with samples := ps }⟩
  | .replpx dest stride x y val =>
    ⟨0x40, { Operands.zero with
      render := { Operands.zero.render with dest := dest, dstStride := stride }, x := x, y := y, val := val }⟩
  | .seedpass o => ⟨0x41, { Operands.zero with render := o }⟩
  | .blendpass o => ⟨0x42, { Operands.zero with render := o }⟩

/-- The command of a table word: the operation byte, every operand slot at zero. -/
def tableCommand (w : Nat) : Command := ⟨BitVec.ofNat 8 w, Operands.zero⟩

/-- The instruction the decoder reads from the operation word `w` of `nbits` bits, every operand slot at zero; none
where it refuses. A word is one byte (30_encoding.md R81). -/
def decodeTableWord (nbits w : Nat) : Option Instr :=
  if nbits = 8 ∧ w < 2 ^ 8 then
    match decode (tableCommand w) with
    | .ok i => some i
    | .error _ => none
  else none

end Sys2Proof
end

