-- ==== Sys2Proof/Machine/Flags.lean ====
section
/-! DEFINITION. The per-pixel predicates PURE, ELIG3 and ALT2, "combinational functions of `P[0..5]`", not stored
(10_state.md section 2, 43_pixel_blender.md). -/

namespace Sys2Proof.Machine

/-- 1 for a non-zero channel, else 0 (43_pixel_blender.md R170). -/
def nonZero {n : Nat} (c : BitVec n) : Nat := if c = 0 then 0 else 1

/-- PURE: at most one channel is non-zero (43_pixel_blender.md R170). -/
def isPure (p : Pixel) : Bool := decide (nonZero (redOf p) + nonZero (greenOf p) + nonZero (blueOf p) ≤ 1)

/-- ELIG3: three pure pixels and a period-3 pattern seen twice (43_pixel_blender.md R172). -/
def eligible3 (ps : Samples) : Bool :=
  isPure ps.p0 && isPure ps.p1 && isPure ps.p2 &&
    (ps.p0 == ps.p3) && (ps.p1 == ps.p4) && (ps.p2 == ps.p5)

/-- ALT2: the two-step alternation pattern (43_pixel_blender.md R173). -/
def alternates2 (p0 p1 p2 : Pixel) : Bool := (p0 == p2) && (p0 != p1) && (p1 != p2)

end Sys2Proof.Machine
end

