-- ==== Sys2Proof/Machine/Datapath.lean ====
section
/-! DEFINITION. The channel datapath and the per-pixel evaluation, as functions of the tables, the flags and the
pixels (41_blend_lookup.md, 43_pixel_blender.md). -/

namespace Sys2Proof.Machine

/-- BLEND2: per channel `blend[previous][current]` (41_blend_lookup.md R134). -/
def blendTwo (lut : Lut) (pPrev pCur : Pixel) : Pixel :=
  packPixel (BlendTable.at lut.blend5 (redOf pPrev) (redOf pCur))
    (BlendTable.at lut.blend6 (greenOf pPrev) (greenOf pCur))
    (BlendTable.at lut.blend5 (blueOf pPrev) (blueOf pCur))

/-- One channel of BLEND3: `forward[(reverse[a] + reverse[b] + reverse[c]) div 3]` (41_blend_lookup.md R136). -/
def averageChannel {n : Nat} (forward reverse : Table n) (a b c : BitVec n) : BitVec n :=
  Table.at forward (BitVec.ofNat n
    (((Table.at reverse a).toNat + (Table.at reverse b).toNat + (Table.at reverse c).toNat) / 3))

/-- BLEND3: the three-way gamma-correct average (41_blend_lookup.md R136). -/
def blendThree (lut : Lut) (pa pb pc : Pixel) : Pixel :=
  packPixel (averageChannel lut.forward5 lut.reverse5 (redOf pa) (redOf pb) (redOf pc))
    (averageChannel lut.forward6 lut.reverse6 (greenOf pa) (greenOf pb) (greenOf pc))
    (averageChannel lut.forward5 lut.reverse5 (blueOf pa) (blueOf pb) (blueOf pc))

/-- OR3: the bitwise OR of three pixels (41_blend_lookup.md R138). -/
def orThree (pa pb pc : Pixel) : Pixel := pa ||| pb ||| pc

/-- TWOPATH, with the optional motion gate (43_pixel_blender.md R174). -/
def twoPath (lut : Lut) (motionCheck : Bool) (p0 p1 p2 : Pixel) : Pixel :=
  if motionCheck then
    if alternates2 p0 p1 p2 then blendTwo lut p1 p0 else p0
  else blendTwo lut p1 p0

/-- TRIOUT (43_pixel_blender.md R176). -/
def triOut (lut : Lut) (fullbright : Bool) (p0 p1 p2 : Pixel) : Pixel :=
  if fullbright then orThree p0 p1 p2 else blendThree lut p0 p1 p2

/-- PIXEL: dispatch by mode; no value in the reserved mode 3 (43_pixel_blender.md R178). The three-colour path is not
gated by the motion check (R177; the parameter `GATE_TRI` of 00_scope.md R7, fixed, log 23), and the codes of the modes
are 0, 1, 2 (`MODE_CODES`, fixed, log 23). -/
def pixelOut (mode : BitVec 2) (fullbright motionCheck : Bool) (lut : Lut) (ps : Samples) : Option Pixel :=
  if mode = 0 then some ps.p0
  else if mode = 1 then some (twoPath lut motionCheck ps.p0 ps.p1 ps.p2)
  else if mode = 2 then
    if eligible3 ps then some (triOut lut fullbright ps.p0 ps.p1 ps.p2)
    else some (twoPath lut motionCheck ps.p0 ps.p1 ps.p2)
  else none

end Sys2Proof.Machine
end

