-- ==== Sys2Proof/Machine/Memory.lean ====
section
/-! DEFINITION. The host's memory, in which SRC and DST lie (20_memory.md R40 to R42): bytes in one canonical form,
read and written a pixel at a time, little-endian (20_memory.md R45). -/

namespace Sys2Proof.Machine

/-- The host's memory: the bytes its buffers hold. An address that is not listed belongs to no buffer: it has no
value (DESIGN CHOICE, log 8). -/
abbrev Memory := List Host.Cell

/-- The canonical form: addresses strictly rising. (An unlisted address reads as no value, so no entry can equal
what an unlisted address reads as.) -/
abbrev Memory.wf (m : Memory) : Prop := m.Pairwise fun a b => a.1 < b.1

/-- What an unlisted address reads as: no value (log 8). -/
def Memory.unlisted : Option Byte := none

/-- The byte at address `a`, or no value where no buffer holds it. -/
def Memory.read : Memory → Nat → Option Byte
  | [], _ => Memory.unlisted
  | (k, v) :: rest, a => if a = k then some v else Memory.read rest a

/-- The memory with byte `v` at address `a`, in canonical form. -/
def Memory.write : Memory → Nat → Byte → Memory
  | [], a, v => [(a, v)]
  | (k, w) :: rest, a, v =>
    if a < k then (a, v) :: (k, w) :: rest
    else if a = k then (a, v) :: rest
    else (k, w) :: Memory.write rest a v

/-- The pixel at cell `c`: bits 7..0 in byte `2c`, bits 15..8 in byte `2c + 1` (20_memory.md R45; the parameter
`BYTE_ORDER` of 00_scope.md R7, fixed, log 23). -/
def Memory.readPixel (m : Memory) (c : Nat) : Option Pixel :=
  match Memory.read m (2 * c), Memory.read m (2 * c + 1) with
  | some lo, some hi => some (hi ++ lo)
  | _, _ => none

/-- The memory with pixel `p` at cell `c`. -/
def Memory.writePixel (m : Memory) (c : Nat) (p : Pixel) : Memory :=
  Memory.write (Memory.write m (2 * c) (p.extractLsb' 0 8)) (2 * c + 1) (p.extractLsb' 8 8)

/-- Some buffer of the host holds cell `c`. -/
def Memory.holds (m : Memory) (c : Nat) : Bool := (Memory.readPixel m c).isSome

/-- Some buffer of the host holds each of the `n` cells from `base` on. -/
def Memory.holdsAll (m : Memory) (base n : Nat) : Bool :=
  (List.range n).all fun k => Memory.holds m (base + k)

/-- The memory with the pixels `ps` in consecutive cells from `c` on. -/
def Memory.writeRun : Memory → Nat → List Pixel → Memory
  | m, _, [] => m
  | m, c, p :: ps => Memory.writeRun (Memory.writePixel m c p) (c + 1) ps

end Sys2Proof.Machine
end

