-- ==== Sys2Proof/Machine/State.lean ====
section
/-! DEFINITION. The state of the machine as plain data, why a step may stop, and the state after reset
(10_state.md). -/

namespace Sys2Proof.Machine

/-- The faults: none. The engine has no fault; the one condition it signals, TooSmall, is a returned value
(60_exceptions.md R230, R235). -/
inductive Fault
deriving DecidableEq, Repr

/-- The refusals: the uses the spec marks `refuse`, to which "a model gives no step" (00_scope.md section 5). All
are safe: the model stops where the hardware may go on. -/
inductive Refusal where
  /-- An instruction that has no meaning yet; raised by no arm. Safe. -/
  | notModelled (mnemonic : String)
  /-- A reserved operation code (30_encoding.md R83 a); raised by `step`. Safe. -/
  | reservedOp (op : BitVec 8)
  /-- A command other than CONSTRUCT before the first CONSTRUCT (70_reset_and_hazards.md R252); raised by RELOAD,
  TOGGLE, STATUS and RENDER. Safe. -/
  | notConstructed
  /-- `SEED` while seeded (42_history_store.md R158); raised by SEED and SEEDPASS. Safe. -/
  | alreadySeeded
  /-- `PUSHPX`, `ADVANCE` or `AT` while unseeded (42_history_store.md R158), or BLENDPASS, which "requires
  `SEEDED = 1`" (44_compositor.md R196); raised by these four. Safe. -/
  | unseeded
  /-- An age outside 1..5 (42_history_store.md R158); raised by AT. Safe. -/
  | ageRange
  /-- A position outside the grid or the store (42_history_store.md R158, 93_implementation_defined.md U4); raised by
  PUSHPX, AT and the blend pass. Safe. -/
  | outsideHistory
  /-- A frame that does not have the store's dimensions (42_history_store.md R153, 44_compositor.md R196; DEDUCED, logs
  15 and 22); raised by SEED, SEEDPASS and BLENDPASS. Safe. -/
  | frameSize
  /-- `src_stride < source_w` (20_memory.md R52 duty 1); raised by RENDER, SEEDPASS and BLENDPASS. Safe. -/
  | srcStride
  /-- SRC does not hold its stated extent (20_memory.md R52 duty 2); raised by RENDER, SEEDPASS and BLENDPASS.
  Safe. -/
  | srcExtent
  /-- `dst_stride < 2 * source_w` where DST is written (20_memory.md R52 duty 1); raised by RENDER, SEEDPASS and
  BLENDPASS. Safe. -/
  | dstStride
  /-- DST does not hold the cells to be written (20_memory.md R52 duty 2); raised by RENDER, SEEDPASS, BLENDPASS and
  REPLPX. Safe. -/
  | dstExtent
  /-- The cells read and the cells written are not disjoint (20_memory.md R52 duty 3); raised by RENDER, SEEDPASS and
  BLENDPASS. Safe. -/
  | overlap
  /-- `MODE` is 3 (43_pixel_blender.md R178); raised by PIXEL and the blend pass. Safe. -/
  | reservedMode
deriving DecidableEq, Repr

/-- What an operation returns to its issuer: the `-> result` of 30_encoding.md R86 (log 10). -/
inductive Result where
  /-- The operation has no result. -/
  | none
  /-- RENDER: `(output_w, output_h)` (30_encoding.md R79). -/
  | size (w h : OutDim)
  /-- STATUS: `(mode, gamma, ratio, motion_check)` (30_encoding.md R78). -/
  | status (mode : BitVec 2) (gamma ratio : Rat) (motionCheck : Bool)
  /-- BUILD: the six tables (40_lut_builder.md R100). -/
  | tables (lut : Lut)
  /-- CLAMPG and CLAMPR: a real (40_lut_builder.md R101, R102). -/
  | real (q : Rat)
  /-- FWDENT, REVENT and BLENDENT: a table entry (40_lut_builder.md R104, R106, R109). -/
  | entry (v : Nat)
  /-- AT: a frame, row-major (42_history_store.md R156). -/
  | frame (ps : List Pixel)
  /-- UNPACK: the three fields (41_blend_lookup.md R130). -/
  | channels (r : BitVec 5) (g : BitVec 6) (b : BitVec 5)
  /-- A pixel: PACK, BLEND2, BLEND3, OR3, TWOPATH, TRIOUT, PIXEL. -/
  | pixel (p : Pixel)
  /-- A bit: PURE, ELIG3, ALT2. -/
  | bit (b : Bool)
deriving DecidableEq, Repr

/-- The machine. The fields down to `y` are the spec's; `mem` is the host's memory, in which SRC and DST lie; the last
three are the model's own (INVENTORY.md, State). -/
structure State where
  /-- A CONSTRUCT has run (70_reset_and_hazards.md R252). -/
  constructed : Bool
  /-- `GAMMA` (10_state.md R17). -/
  gamma : Gamma
  /-- `RATIO` (10_state.md R18). -/
  ratio : Ratio
  /-- `LUT` (10_state.md R20). -/
  lut : Lut
  /-- `MODE` (10_state.md R16). -/
  mode : BitVec 2
  /-- `FULLBRIGHT` (10_state.md R14). -/
  fullbright : Bool
  /-- `MOTION_CHECK` (10_state.md R15). -/
  motionCheck : Bool
  /-- `SEEDED` (10_state.md R13). -/
  seeded : Bool
  /-- `LAST_W` (10_state.md R19). -/
  lastW : Dim
  /-- `LAST_H` (10_state.md R19). -/
  lastH : Dim
  /-- `BASE` (10_state.md R21). -/
  base : Fin 5
  /-- `HIST`: cell `s * W * H + y * W + x` (10_state.md R22, 20_memory.md R43; DESIGN CHOICE,
  log 17). -/
  hist : List Pixel
  /-- `OUT_W` (10_state.md R23). -/
  outW : OutDim
  /-- `OUT_H` (10_state.md R23). -/
  outH : OutDim
  /-- `P[0..5]` (10_state.md R10). -/
  p : Samples
  /-- `OUT` (10_state.md R11). -/
  out : Pixel
  /-- `X` of the raster cursor (10_state.md R12). -/
  x : Dim
  /-- `Y` of the raster cursor (10_state.md R12). -/
  y : Dim
  /-- The host's memory (20_memory.md R40; log 8). -/
  mem : Memory
  /-- The inputs the host still has to deliver, in order (log 3). -/
  inbox : List Input
  /-- What the last operation returned (log 10). -/
  ret : Result
  /-- How many draws of free values have been made (log 20). -/
  drawn : Nat
deriving DecidableEq, Repr

/-- The outcome of a step of this machine. -/
abbrev Step := Host.Outcome State Fault Refusal

/-- The state after reset: that of 10_state.md R26 after CONSTRUCT with the default configuration of 00_scope.md R6
(DEDUCED, log 4). `OUT_W`, `OUT_H`, the latches and the cursor are 0 (DESIGN CHOICE, log 5). -/
def State.reset : State where
  constructed := true
  gamma := Config.defaultGamma
  ratio := Config.defaultRatio
  lut := buildLut Config.defaultGamma Config.defaultRatio
  mode := Config.defaultMode
  fullbright := false
  motionCheck := false
  seeded := false
  lastW := 0
  lastH := 0
  base := 0
  hist := []
  outW := 0
  outH := 0
  p := ⟨0, 0, 0, 0, 0, 0⟩
  out := 0
  x := 0
  y := 0
  mem := []
  inbox := []
  ret := .none
  drawn := 0

end Sys2Proof.Machine
end

