-- ==== Sys2Proof/Machine/Ops.lean ====
section
/-! DEFINITION. The named operations over the state that the meanings share: updates of its registers, the history
store, host memory, the passes, and the one signalled condition. -/

namespace Sys2Proof.Machine

/-! ### Sequencing -/

/-- Go on with `f` from a next state; stop where the step stopped. -/
def andThen (r : Step) (f : State → Step) : Step :=
  match r with
  | .next s => f s
  | .fault e => .fault e
  | .refused e => .refused e

/-- `f` at every position of a list, in order, stopping at the first stop. -/
def forEach (f : Nat × Nat → State → Step) : List (Nat × Nat) → State → Step
  | [], s => .next s
  | q :: qs, s => andThen (f q s) (forEach f qs)

/-- A command is run only once the engine is constructed (70_reset_and_hazards.md R252; DEDUCED, log 12). -/
def whenConstructed (s : State) (r : Step) : Step :=
  if s.constructed then r else .refused .notConstructed

/-! ### Registers -/

/-- The result an operation returns to its issuer (log 10). -/
def State.returning (s : State) (r : Result) : State := { s with ret := r }

/-- BUILD's publication: `GAMMA`, `RATIO` and `LUT` replaced as one unit (40_lut_builder.md R100, R111). -/
def State.build (s : State) (gamma ratio : Rat) : State :=
  { s with
    gamma := clampGamma gamma
    ratio := clampRatio ratio
    lut := buildLut (clampGamma gamma) (clampRatio ratio) }

/-- `MODE`, `FULLBRIGHT` and `MOTION_CHECK` from a configuration (45_mode_control.md R210, R212). -/
def State.setControls (s : State) (mode : BitVec 2) (fb mc : Bool) : State :=
  { s with mode := mode, fullbright := fb, motionCheck := mc }

/-- What CONSTRUCT and RELOAD share: sanitise, BUILD, set the controls (45_mode_control.md R210, R212, R216). -/
def State.configure (s : State) (cfg : Cfg) : State :=
  (s.build (saneGamma cfg) (saneRatio cfg)).setControls (saneMode cfg.mode) cfg.fullbright cfg.motionCheck

/-- A CONSTRUCT has run. -/
def State.markConstructed (s : State) : State := { s with constructed := true }

/-- The mode machine's one transition: `MODE <- (MODE + 1) mod 3` (45_mode_control.md R213). -/
def State.toggleMode (s : State) : State :=
  { s with mode := BitVec.ofNat 2 ((s.mode.toNat + 1) % 3) }

/-- The pair `(OUT_W, OUT_H)`, which is also the result (10_state.md R23). -/
def State.returnSize (s : State) (w h : OutDim) : State :=
  { s with outW := w, outH := h, ret := .size w h }

/-- The one signalled condition, TooSmall: the result pair is `(0, 0)`; nothing is saved, no control is transferred,
the command simply returns (60_exceptions.md R230, R235). -/
def State.signalTooSmall (s : State) : State := s.returnSize 0 0

/-- The return of a RENDER that passed the capacity check: `(2 * source_w, 2 * source_h)` (44_compositor.md R198). -/
def State.returnRendered (s : State) (o : RenderOperands) : State :=
  s.returnSize (BitVec.ofNat 17 (2 * o.sourceW.toNat)) (BitVec.ofNat 17 (2 * o.sourceH.toNat))

/-! ### Latches and cursor -/

/-- `cursor <- (x, y)` (10_state.md R12). -/
def State.setCursor (s : State) (x y : Nat) : State :=
  { s with x := BitVec.ofNat 16 x, y := BitVec.ofNat 16 y }

/-- `P[0..5] <- ps` (10_state.md R10). -/
def State.setLatches (s : State) (ps : Samples) : State := { s with p := ps }

/-- `OUT <- v` (10_state.md R11). -/
def State.setOut (s : State) (v : Pixel) : State := { s with out := v }

/-- The end of a pass: the cursor holds no value between commands (10_state.md R12); it is a free value (log 6). -/
def State.dropCursor (s : State) : State :=
  { s with x := Config.freeCoord s.drawn 0, y := Config.freeCoord s.drawn 1, drawn := s.drawn + 1 }

/-- The end of a blend pass: neither the latches nor `OUT` hold a value between commands (10_state.md R10, R11); they
are free values (log 6). -/
def State.dropLatches (s : State) : State :=
  { s with
    p := ⟨Config.freePixel s.drawn 0, Config.freePixel s.drawn 1, Config.freePixel s.drawn 2,
      Config.freePixel s.drawn 3, Config.freePixel s.drawn 4, Config.freePixel s.drawn 5⟩
    out := Config.freePixel s.drawn 6
    drawn := s.drawn + 1 }

/-! ### History store -/

/-- Pixels of one history slot: `W * H`. -/
def State.slotSize (s : State) : Nat := s.lastW.toNat * s.lastH.toNat

/-- The HIST cell of slot `slot`, column `x`, row `y` (20_memory.md R43). -/
def State.histCell (s : State) (slot x y : Nat) : Nat := slot * s.slotSize + y * s.lastW.toNat + x

/-- The slot of an age: `(BASE + age - 1) mod 5` (42_history_store.md R156). -/
def slotOf (base : Fin 5) (age : Nat) : Nat := (base.val + age - 1) % 5

/-- The slot a push writes: `(BASE + 4) mod 5`, that of the oldest frame (42_history_store.md R154). -/
def pushSlot (base : Fin 5) : Nat := (base.val + 4) % 5

/-- `AT(age)[y][x]` (42_history_store.md R156), where the store has that cell. -/
def State.histAt (s : State) (age x y : Nat) : Option Pixel := s.hist[s.histCell (slotOf s.base age) x y]?

/-- The frame of an age, row-major (42_history_store.md R156), where the store holds it. -/
def State.frameAt (s : State) (age : Nat) : Option (List Pixel) :=
  if (slotOf s.base age + 1) * s.slotSize ≤ s.hist.length then
    some ((s.hist.drop (slotOf s.base age * s.slotSize)).take s.slotSize)
  else none

/-- RESIZE, one indivisible step: unseeded, the new dimensions, five slots of unspecified contents (free values,
log 7), `BASE <- 0` (42_history_store.md R151); it never fails (DEDUCED, log 21). -/
def State.resizeStore (s : State) (w h : Dim) : State :=
  { s with
    seeded := false
    lastW := w
    lastH := h
    hist := (List.range (w.toNat * h.toNat * Config.depth)).map (Config.freePixel s.drawn)
    base := 0
    drawn := s.drawn + 1 }

/-- SEED's effect: the frame in all five slots, seeded (42_history_store.md R153). -/
def State.seedStore (s : State) (frame : List Pixel) : State :=
  { s with hist := frame ++ frame ++ frame ++ frame ++ frame, seeded := true }

/-- SEED: valid only while unseeded (42_history_store.md R153, R158), for a frame of the store's size, which is what its
operand is (R153; that another is refused is DEDUCED, log 22). -/
def seedFrame (frame : List Pixel) (s : State) : Step :=
  if s.seeded then .refused .alreadySeeded
  else if frame.length = s.slotSize then .next (s.seedStore frame)
  else .refused .frameSize

/-- PUSHPX's effect on a cell of the store. -/
def State.setHist (s : State) (k : Nat) (v : Pixel) : State := { s with hist := s.hist.set k v }

/-- The cell PUSHPX writes at a position (42_history_store.md R154). -/
def State.pushCell (s : State) (x y : Nat) : Nat := s.histCell (pushSlot s.base) x y

/-- PUSHPX: valid only while seeded, at a position of the grid (42_history_store.md R154, R158). -/
def pushPixel (x y : Nat) (v : Pixel) (s : State) : Step :=
  if s.seeded then
    if x < s.lastW.toNat ∧ y < s.lastH.toNat ∧ s.pushCell x y < s.hist.length then
      .next (s.setHist (s.pushCell x y) v)
    else .refused .outsideHistory
  else .refused .unseeded

/-- `BASE <- (BASE + 4) mod 5` (42_history_store.md R155). -/
def State.advanceBase (s : State) : State := { s with base := ⟨(s.base.val + 4) % 5, Nat.mod_lt _ (by decide)⟩ }

/-- ADVANCE: valid only while seeded (42_history_store.md R155, R158); that every position was pushed is not checked
(DEDUCED, log 13). -/
def advanceStore (s : State) : Step :=
  if s.seeded then .next s.advanceBase else .refused .unseeded

/-! ### Host memory -/

/-- The state with another host memory. -/
def State.setMem (s : State) (m : Memory) : State := { s with mem := m }

/-- The memory after the 2x2 block of position `(x, y)` is written with `v` (44_compositor.md R195). -/
def writeBlock (m : Memory) (dest : Nat) (stride : Dim) (x y : Nat) (v : Pixel) : Memory :=
  Memory.writePixel (Memory.writePixel (Memory.writePixel (Memory.writePixel m
    (dstCell dest stride (2 * x) (2 * y)) v)
    (dstCell dest stride (2 * x + 1) (2 * y)) v)
    (dstCell dest stride (2 * x) (2 * y + 1)) v)
    (dstCell dest stride (2 * x + 1) (2 * y + 1)) v

/-- DST holds the four cells of the 2x2 block of position `(x, y)`. -/
def holdsBlock (m : Memory) (dest : Nat) (stride : Dim) (x y : Nat) : Bool :=
  Memory.holds m (dstCell dest stride (2 * x) (2 * y)) &&
    Memory.holds m (dstCell dest stride (2 * x + 1) (2 * y)) &&
    Memory.holds m (dstCell dest stride (2 * x) (2 * y + 1)) &&
    Memory.holds m (dstCell dest stride (2 * x + 1) (2 * y + 1))

/-- REPLPX: the 2x2 block write (44_compositor.md R195), into cells that DST holds (20_memory.md R52). -/
def replicate (dest : Nat) (stride : Dim) (x y : Nat) (v : Pixel) (s : State) : Step :=
  if holdsBlock s.mem dest stride x y then .next (s.setMem (writeBlock s.mem dest stride x y v))
  else .refused .dstExtent

/-- The pixels of a list of cells, where the host's buffers hold them all. -/
def readCells (m : Memory) : List Nat → Option (List Pixel)
  | [] => some []
  | c :: cs =>
    match Memory.readPixel m c, readCells m cs with
    | some v, some vs => some (v :: vs)
    | _, _ => none

/-- The source frame, row-major, read through its stride (42_history_store.md R153, 20_memory.md R41). -/
def sourceFrame (o : RenderOperands) (m : Memory) : Option (List Pixel) :=
  readCells m ((positions o.sourceW.toNat o.sourceH.toNat).map fun q => srcCell o q.1 q.2)

/-- The first host duty of 20_memory.md R52 that a call breaks; the duties on the destination bind only where DST is
written (log 14). -/
def brokenDuty (o : RenderOperands) (writes : Bool) (m : Memory) : Option Refusal :=
  if !srcStrideOk o then some .srcStride
  else if !Memory.holdsAll m o.source (srcExtent o) then some .srcExtent
  else if !writes then none
  else if !dstStrideOk o then some .dstStride
  else if !Memory.holdsAll m o.dest (dstExtent o) then some .dstExtent
  else if overlaps o then some .overlap
  else none

/-- A pass or a RENDER runs only where the host meets its duties: "a call that breaks one is `refuse`" (20_memory.md
R52). -/
def underDuties (o : RenderOperands) (writes : Bool) (s : State) (r : Step) : Step :=
  match brokenDuty o writes s.mem with
  | some e => .refused e
  | none => r

/-! ### The passes -/

/-- One position of the seed pass: the source pixel into its block (44_compositor.md R194). -/
def seedPosition (o : RenderOperands) (q : Nat × Nat) (s : State) : Step :=
  match Memory.readPixel s.mem (srcCell o q.1 q.2) with
  | some v => replicate o.dest o.dstStride q.1 q.2 v (s.setCursor q.1 q.2)
  | none => .refused .srcExtent

/-- SEED with the source frame (44_compositor.md R194). -/
def seedFromSource (o : RenderOperands) (s : State) : Step :=
  match sourceFrame o s.mem with
  | some frame => seedFrame frame s
  | none => .refused .srcExtent

/-- The store has the dimensions of the source frame: `W = source_w = LAST_W`, `H = source_h = LAST_H`
(44_compositor.md R196). -/
def State.fits (s : State) (o : RenderOperands) : Bool := (s.lastW == o.sourceW) && (s.lastH == o.sourceH)

/-- SEEDPASS: every source pixel into its block, then SEED (44_compositor.md R194). -/
def seedPass (o : RenderOperands) (s : State) : Step :=
  if s.seeded then .refused .alreadySeeded
  else if s.fits o then
    andThen (forEach (seedPosition o) (positions o.sourceW.toNat o.sourceH.toNat) s) fun t =>
      andThen (seedFromSource o t) fun u => .next u.dropCursor
  else .refused .frameSize

/-- `P[0]` from SRC and `P[1..5]` from the ages 1 to 5 at a position (44_compositor.md R196). -/
def State.samplesAt (s : State) (p0 : Pixel) (x y : Nat) : Option Samples :=
  match s.histAt 1 x y, s.histAt 2 x y, s.histAt 3 x y, s.histAt 4 x y, s.histAt 5 x y with
  | some p1, some p2, some p3, some p4, some p5 => some ⟨p0, p1, p2, p3, p4, p5⟩
  | _, _, _, _, _ => none

/-- PIXEL over the latches, into `OUT` (43_pixel_blender.md R178). -/
def evaluatePixel (ps : Samples) (s : State) : Step :=
  match pixelOut s.mode s.fullbright s.motionCheck s.lut ps with
  | some v => .next (s.setOut v)
  | none => .refused .reservedMode

/-- One position of the blend pass: load `P[0..5]`, PIXEL, REPLPX of `OUT`, PUSHPX of `P[0]`; the reads precede the
push (44_compositor.md R196). -/
def blendPosition (o : RenderOperands) (q : Nat × Nat) (s : State) : Step :=
  match Memory.readPixel s.mem (srcCell o q.1 q.2) with
  | some p0 =>
    match s.samplesAt p0 q.1 q.2 with
    | some ps =>
      andThen (evaluatePixel ps ((s.setCursor q.1 q.2).setLatches ps)) fun t =>
        andThen (replicate o.dest o.dstStride q.1 q.2 t.out t) fun u =>
          pushPixel q.1 q.2 u.p.p0 u
    | none => .refused .outsideHistory
  | none => .refused .srcExtent

/-- BLENDPASS: every position, then ADVANCE (44_compositor.md R196). -/
def blendPass (o : RenderOperands) (s : State) : Step :=
  if s.seeded then
    if s.fits o then
      andThen (forEach (blendPosition o) (positions o.sourceW.toNat o.sourceH.toNat) s) fun t =>
        andThen (advanceStore t) fun u => .next u.dropCursor.dropLatches
    else .refused .frameSize
  else .refused .unseeded

/-- Step 1 of RENDER: RESIZE on a change of either dimension (44_compositor.md R191). -/
def State.trackDimensions (s : State) (o : RenderOperands) : State :=
  if s.fits o then s else s.resizeStore o.sourceW o.sourceH

/-- Steps 1 to 5 of RENDER (44_compositor.md R190). -/
def renderFrame (o : RenderOperands) (s : State) : Step :=
  let s1 := s.trackDimensions o
  if tooSmall o then .next s1.signalTooSmall
  else andThen (if s1.seeded then blendPass o s1 else seedPass o s1) fun t => .next (t.returnRendered o)

/-! ### Inputs -/

/-- The state with the inputs that are still to come. -/
def State.setInbox (s : State) (rest : List Input) : State := { s with inbox := rest }

/-- The host puts pixels into its memory (log 3). -/
def State.pokeMem (s : State) (cell : Nat) (ps : List Pixel) : State :=
  s.setMem (Memory.writeRun s.mem cell ps)

end Sys2Proof.Machine
end

