-- ==== Sys2Proof/Machine/BlendLookup.lean ====
section
/-! DEFINITION. The channel datapath operations: UNPACK, PACK, BLEND2, BLEND3, OR3 (41_blend_lookup.md). -/

namespace Sys2Proof.Machine

/-- UNPACK (41_blend_lookup.md R130). -/
def execUnpack (p : Pixel) (s : State) : Step :=
  .next (s.returning (.channels (redOf p) (greenOf p) (blueOf p)))

/-- PACK (41_blend_lookup.md R131). -/
def execPack (r : BitVec 5) (g : BitVec 6) (b : BitVec 5) (s : State) : Step :=
  .next (s.returning (.pixel (packPixel r g b)))

/-- BLEND2, over the tables in the engine (41_blend_lookup.md R134). -/
def execBlend2 (pPrev pCur : Pixel) (s : State) : Step :=
  .next (s.returning (.pixel (blendTwo s.lut pPrev pCur)))

/-- BLEND3, over the tables in the engine (41_blend_lookup.md R136). -/
def execBlend3 (pa pb pc : Pixel) (s : State) : Step :=
  .next (s.returning (.pixel (blendThree s.lut pa pb pc)))

/-- OR3 (41_blend_lookup.md R138). -/
def execOr3 (pa pb pc : Pixel) (s : State) : Step :=
  .next (s.returning (.pixel (orThree pa pb pc)))

end Sys2Proof.Machine
end

