-- ==== Sys2Proof/Machine/Compositor.lean ====
section
/-! DEFINITION. The operations of the Frame Compositor: RENDER, REPLPX, SEEDPASS, BLENDPASS (44_compositor.md). -/

namespace Sys2Proof.Machine

/-- RENDER, under the host duties; those on the destination bind only where the capacity check passes
(44_compositor.md R190, 20_memory.md R52). -/
def execRender (o : RenderOperands) (s : State) : Step :=
  whenConstructed s (underDuties o (!tooSmall o) s (renderFrame o s))

/-- REPLPX (44_compositor.md R195). -/
def execReplpx (dest : Nat) (dstStride : Dim) (x y : Dim) (val : Pixel) (s : State) : Step :=
  andThen (replicate dest dstStride x.toNat y.toNat val s) fun t => .next (t.returning .none)

/-- SEEDPASS, under the host duties (44_compositor.md R194, 20_memory.md R52). -/
def execSeedpass (o : RenderOperands) (s : State) : Step :=
  underDuties o true s (andThen (seedPass o s) fun t => .next (t.returning .none))

/-- BLENDPASS, under the host duties (44_compositor.md R196, 20_memory.md R52). -/
def execBlendpass (o : RenderOperands) (s : State) : Step :=
  underDuties o true s (andThen (blendPass o s) fun t => .next (t.returning .none))

end Sys2Proof.Machine
end

