-- ==== Sys2Proof/Machine/HistoryStore.lean ====
section
/-! DEFINITION. The operations of the Frame History Store: RESIZE, SEED, PUSHPX, ADVANCE, AT (42_history_store.md). -/

namespace Sys2Proof.Machine

/-- RESIZE: valid in either condition (42_history_store.md R150, R151). -/
def execResize (width height : Dim) (s : State) : Step :=
  .next ((s.resizeStore width height).returning .none)

/-- SEED (42_history_store.md R153). -/
def execSeed (frame : List Pixel) (s : State) : Step :=
  andThen (seedFrame frame s) fun t => .next (t.returning .none)

/-- PUSHPX (42_history_store.md R154). -/
def execPushpx (x y : Dim) (p : Pixel) (s : State) : Step :=
  andThen (pushPixel x.toNat y.toNat p s) fun t => .next (t.returning .none)

/-- ADVANCE (42_history_store.md R155). -/
def execAdvance (s : State) : Step :=
  andThen (advanceStore s) fun t => .next (t.returning .none)

/-- AT: valid only while seeded, for an age of 1 to 5 (42_history_store.md R156, R158). -/
def execAtAge (age : Nat) (s : State) : Step :=
  if s.seeded then
    if ageOk age then
      match s.frameAt age with
      | some frame => .next (s.returning (.frame frame))
      | none => .refused .outsideHistory
    else .refused .ageRange
  else .refused .unseeded

end Sys2Proof.Machine
end

