-- ==== Sys2Proof/Machine/LutBuilder.lean ====
section
/-! DEFINITION. The operations of the LUT Manager: BUILD, CLAMPG, CLAMPR, FWDENT, REVENT, BLENDENT
(40_lut_builder.md). -/

namespace Sys2Proof.Machine

/-- BUILD: `GAMMA`, `RATIO` and the six tables replaced as one unit; the result is the tables (40_lut_builder.md
R100). -/
def execBuild (gamma ratio : Rat) (s : State) : Step :=
  .next ((s.build gamma ratio).returning (.tables (buildLut (clampGamma gamma) (clampRatio ratio))))

/-- CLAMPG (40_lut_builder.md R101). -/
def execClampg (gamma : Rat) (s : State) : Step := .next (s.returning (.real (clampGamma gamma).val))

/-- CLAMPR (40_lut_builder.md R102). -/
def execClampr (ratio : Rat) (s : State) : Step := .next (s.returning (.real (clampRatio ratio).val))

/-- FWDENT, for either width (40_lut_builder.md R104). -/
def execFwdent (i : ChannelValue) (g : Gamma) (s : State) : Step :=
  match i with
  | .w5 i => .next (s.returning (.entry (forwardEntry 5 i.toNat g)))
  | .w6 i => .next (s.returning (.entry (forwardEntry 6 i.toNat g)))

/-- REVENT, for either width (40_lut_builder.md R106). -/
def execRevent (i : ChannelValue) (g : Gamma) (s : State) : Step :=
  match i with
  | .w5 i => .next (s.returning (.entry (reverseEntry 5 i.toNat g)))
  | .w6 i => .next (s.returning (.entry (reverseEntry 6 i.toNat g)))

/-- BLENDENT, for either width, over the operand's tables (40_lut_builder.md R109). -/
def execBlendent (e : BlendEntry) (r : Ratio) (s : State) : Step :=
  match e with
  | .w5 i j forward reverse => .next (s.returning (.entry (blendEntry forward reverse r i j).toNat))
  | .w6 i j forward reverse => .next (s.returning (.entry (blendEntry forward reverse r i j).toNat))

end Sys2Proof.Machine
end

