-- ==== Sys2Proof/Machine/ModeControl.lean ====
section
/-! DEFINITION. The commands of 45_mode_control.md: CONSTRUCT, RELOAD, TOGGLE, STATUS. -/

namespace Sys2Proof.Machine

/-- CONSTRUCT: sanitise, BUILD, set the controls, `RESIZE(0, 0)` (45_mode_control.md R210). `OUT_W` and `OUT_H` are
left (10_state.md R27). -/
def execConstruct (cfg : Cfg) (s : State) : Step :=
  .next ((((s.configure cfg).resizeStore 0 0).markConstructed).returning .none)

/-- RELOAD: sanitise, BUILD, set the controls, `MODE` among them; the history is kept (45_mode_control.md R212; the
parameter `RELOAD_SETS_MODE` of 00_scope.md R7, fixed, log 23). -/
def execReload (cfg : Cfg) (s : State) : Step :=
  whenConstructed s (.next ((s.configure cfg).returning .none))

/-- TOGGLE: one transition of the mode machine (45_mode_control.md R213). -/
def execToggle (s : State) : Step :=
  whenConstructed s (.next (s.toggleMode.returning .none))

/-- STATUS: the effective values, read only (45_mode_control.md R215). -/
def execStatus (s : State) : Step :=
  whenConstructed s (.next (s.returning (.status s.mode s.gamma.val s.ratio.val s.motionCheck)))

end Sys2Proof.Machine
end

