-- ==== Sys2Proof/Machine/PixelBlender.lean ====
section
/-! DEFINITION. The operations of the Blend Decision Engine: PURE, ELIG3, ALT2, TWOPATH, TRIOUT, PIXEL
(43_pixel_blender.md). -/

namespace Sys2Proof.Machine

/-- PURE (43_pixel_blender.md R170). -/
def execPure (p : Pixel) (s : State) : Step := .next (s.returning (.bit (isPure p)))

/-- ELIG3 (43_pixel_blender.md R172). -/
def execElig3 (ps : Samples) (s : State) : Step := .next (s.returning (.bit (eligible3 ps)))

/-- ALT2 (43_pixel_blender.md R173). -/
def execAlt2 (p0 p1 p2 : Pixel) (s : State) : Step := .next (s.returning (.bit (alternates2 p0 p1 p2)))

/-- TWOPATH, reading `MOTION_CHECK` and `LUT` (43_pixel_blender.md R174). -/
def execTwopath (p0 p1 p2 : Pixel) (s : State) : Step :=
  .next (s.returning (.pixel (twoPath s.lut s.motionCheck p0 p1 p2)))

/-- TRIOUT, reading `FULLBRIGHT` and `LUT` (43_pixel_blender.md R176). -/
def execTriout (p0 p1 p2 : Pixel) (s : State) : Step :=
  .next (s.returning (.pixel (triOut s.lut s.fullbright p0 p1 p2)))

/-- PIXEL: `OUT`, which is also the result (43_pixel_blender.md R178). -/
def execPixel (ps : Samples) (s : State) : Step :=
  andThen (evaluatePixel ps s) fun t => .next (t.returning (.pixel t.out))

end Sys2Proof.Machine
end

