-- ==== Sys2Proof/Machine/Dispatch.lean ====
section
/-! DEFINITION. The dispatch: one arm per instruction, each one call of its meaning. -/

namespace Sys2Proof.Machine

def exec (i : Instr) (s : State) : Host.Outcome State Fault Refusal :=
  match i with
  | .construct cfg => Sys2Proof.Machine.execConstruct cfg s
  | .reload cfg => Sys2Proof.Machine.execReload cfg s
  | .toggle => Sys2Proof.Machine.execToggle s
  | .status => Sys2Proof.Machine.execStatus s
  | .render o => Sys2Proof.Machine.execRender o s
  | .build gamma ratio => Sys2Proof.Machine.execBuild gamma ratio s
  | .clampg gamma => Sys2Proof.Machine.execClampg gamma s
  | .clampr ratio => Sys2Proof.Machine.execClampr ratio s
  | .fwdent j g => Sys2Proof.Machine.execFwdent j g s
  | .revent j g => Sys2Proof.Machine.execRevent j g s
  | .blendent e r => Sys2Proof.Machine.execBlendent e r s
  | .resize width height => Sys2Proof.Machine.execResize width height s
  | .seed frame => Sys2Proof.Machine.execSeed frame s
  | .pushpx x y p => Sys2Proof.Machine.execPushpx x y p s
  | .advance => Sys2Proof.Machine.execAdvance s
  | .atAge age => Sys2Proof.Machine.execAtAge age s
  | .unpack p => Sys2Proof.Machine.execUnpack p s
  | .pack r g b => Sys2Proof.Machine.execPack r g b s
  | .blend2 pPrev pCur => Sys2Proof.Machine.execBlend2 pPrev pCur s
  | .blend3 pa pb pc => Sys2Proof.Machine.execBlend3 pa pb pc s
  | .or3 pa pb pc => Sys2Proof.Machine.execOr3 pa pb pc s
  | .pure p => Sys2Proof.Machine.execPure p s
  | .elig3 ps => Sys2Proof.Machine.execElig3 ps s
  | .alt2 p0 p1 p2 => Sys2Proof.Machine.execAlt2 p0 p1 p2 s
  | .twopath p0 p1 p2 => Sys2Proof.Machine.execTwopath p0 p1 p2 s
  | .triout p0 p1 p2 => Sys2Proof.Machine.execTriout p0 p1 p2 s
  | .pixel ps => Sys2Proof.Machine.execPixel ps s
  | .replpx dest dstStride x y val => Sys2Proof.Machine.execReplpx dest dstStride x y val s
  | .seedpass o => Sys2Proof.Machine.execSeedpass o s
  | .blendpass o => Sys2Proof.Machine.execBlendpass o s

end Sys2Proof.Machine
end

