-- ==== Sys2Proof/Machine/Step.lean ====
section
/-! DEFINITION. One step: the engine takes the next input of the host and, where it is a command, runs it to
completion (00_scope.md R3; 20_memory.md R53). -/

namespace Sys2Proof.Machine

/-- One step. With no input the engine is idle and holds all its state (60_exceptions.md R238, log 3). -/
def step (s : State) : Host.Outcome State Fault Refusal :=
  match s.inbox with
  | [] => .next s
  | .poke cell ps :: rest => .next ((s.setInbox rest).pokeMem cell ps)
  | .command c :: rest =>
    match decode c with
    | .ok i => exec i (s.setInbox rest)
    | .error (.reservedOp op) => .refused (.reservedOp op)

/-- The state with the operation word `w`, every operand slot at zero, as the next input (log 4). -/
def State.withFetchWord (s : State) (_nbits w : Nat) : State :=
  s.setInbox (.command (tableCommand w) :: s.inbox)

end Sys2Proof.Machine
end

