-- ==== Sys2Proof/Safety.lean ====
section
/-! DEFINITION. What counts as a safe run, and the conditions that claims are stated under: the invariant of the
state and the host's duties. -/

namespace Sys2Proof.Machine

/-- The invariant: `MODE` is legal (10_state.md R16), the tables are those of `GAMMA` and `RATIO` (R20), the history has
five slots of the current dimensions (R22), and host memory has its canonical form. `GAMMA >= 1` and `RATIO` in
[0.5, 1] (R17, R18) are in their types, `BASE` in 0..4 (R21) is in its type. -/
structure State.Inv (s : State) : Prop where
  mode_legal : s.mode ≠ 3
  lut_built : s.lut = buildLut s.gamma s.ratio
  hist_size : s.hist.length = 5 * (s.lastW.toNat * s.lastH.toNat)
  mem_wf : Memory.wf s.mem

/-- The host's duties on the source: the stride, and a buffer of the stated extent (20_memory.md R52, duties 1 and
2). -/
abbrev SourceDuties (o : RenderOperands) (m : Memory) : Prop :=
  o.sourceW.toNat ≤ o.srcStride.toNat ∧
    ∀ k < srcExtent o, (Memory.readPixel m (o.source + k)).isSome = true

/-- The host's duties on the destination of a call that writes it: the stride, a buffer of the stated extent, and no
cell that is both read and written (20_memory.md R52, duties 1 to 3). -/
abbrev DestDuties (o : RenderOperands) (m : Memory) : Prop :=
  2 * o.sourceW.toNat ≤ o.dstStride.toNat ∧
    (∀ k < dstExtent o, (Memory.readPixel m (o.dest + k)).isSome = true) ∧
    ∀ x < o.sourceW.toNat, ∀ y < o.sourceH.toNat, ∀ u < 2 * o.sourceW.toNat, ∀ v < 2 * o.sourceH.toNat,
      srcCell o x y ≠ dstCell o.dest o.dstStride u v

/-- A step goes on: it ends in a next state, not in a stop. -/
def State.GoesOn (s : State) : Prop := ∃ t, step s = .next t

/-- A run of `n` steps is safe: it meets no stop. -/
def State.SafeRun (s : State) (n : Nat) : Prop := ∃ t, Sys2Proof.core.run n s = .next t

end Sys2Proof.Machine
end

