-- ==== Sys2Proof/Certificates/Slice0/Obligations.lean ====
section
/-! DEFINITION. The statements for the provers. Each docstring names what of spec/ it formalises; where a clause rests
on a decision of the spec (92_eei_decisions.md) or on a choice of the model (notes/assumptions), the docstring says
so. -/

namespace Sys2Proof.Claims

open Sys2Proof.Machine

/-! ### The terms the statements are written in -/

/-- The real value of the forward entry of index `i` in a table of `m + 1` entries, before the clamp (40_lut_builder.md
R104). -/
noncomputable def forwardValue (m i : ℕ) (g : ℝ) : ℝ :=
  if (i : ℝ) / m ≤ 0.0031308 then 12.92 * ((i : ℝ) / m) * m
  else (1.055 * ((i : ℝ) / m) ^ (1 / g) - 0.055) * m

/-- The real value of the reverse entry of index `i` in a table of `m + 1` entries, before the clamp (40_lut_builder.md
R106). -/
noncomputable def reverseValue (m i : ℕ) (g : ℝ) : ℝ :=
  if (i : ℝ) / m ≤ 0.04045 then (i : ℝ) / m / 12.92 * m
  else (((i : ℝ) / m + 0.055) / 1.055) ^ g * m

/-- `RND(clamp(v, 0, m))`, ties upward (40_lut_builder.md R103). -/
noncomputable def rounded (m : ℕ) (v : ℝ) : ℤ := ⌊min (max v 0) (m : ℝ) + 1 / 2⌋

/-- The red field as a number: `p[15:11]`. -/
def red (p : Pixel) : Nat := p.toNat / 2048

/-- The green field as a number: `p[10:5]`. -/
def green (p : Pixel) : Nat := p.toNat / 32 % 64

/-- The blue field as a number: `p[4:0]`. -/
def blue (p : Pixel) : Nat := p.toNat % 32

/-- At most one field is non-zero (43_pixel_blender.md R170). -/
def AtMostOneChannel (p : Pixel) : Prop :=
  (red p = 0 ∧ green p = 0) ∨ (red p = 0 ∧ blue p = 0) ∨ (green p = 0 ∧ blue p = 0)

/-- One width of a table set: the 1D tables hold the rounded real values of R104 and R106, and the entry of older
sample `i` and newer sample `j` is the forward entry of the rounded average of their reverse entries (R109). -/
def WidthOf (n : Nat) (forward reverse : Table n) (blend : BlendTable n) (g r : ℚ) : Prop :=
  (∀ i : BitVec n,
    ((Table.at forward i).toNat : ℤ) = rounded (2 ^ n - 1) (forwardValue (2 ^ n - 1) i.toNat g) ∧
    ((Table.at reverse i).toNat : ℤ) = rounded (2 ^ n - 1) (reverseValue (2 ^ n - 1) i.toNat g)) ∧
  ∀ i j : BitVec n, ∃ k : BitVec n,
    (k.toNat : ℤ) = ⌊((Table.at reverse i).toNat : ℚ) * (1 - r) + ((Table.at reverse j).toNat : ℚ) * r + 1 / 2⌋ ∧
    BlendTable.at blend i j = Table.at forward k

/-- The table set of a gamma and a ratio (40_lut_builder.md R100). -/
def TablesOf (lut : Lut) (g r : ℚ) : Prop :=
  WidthOf 5 lut.forward5 lut.reverse5 lut.blend5 g r ∧ WidthOf 6 lut.forward6 lut.reverse6 lut.blend6 g r

/-- What sanitising and clamping leave of a configuration (45_mode_control.md R216). -/
def Sanitised (cfg : Cfg) (t : State) : Prop :=
  (∀ q, cfg.gamma = .finite q → t.gamma.val = max q 1) ∧
  ((∀ q, cfg.gamma ≠ .finite q) → t.gamma.val = 11 / 5) ∧
  (∀ q, cfg.ratio = .finite q → t.ratio.val = min (max q (1 / 2)) 1) ∧
  ((∀ q, cfg.ratio ≠ .finite q) → t.ratio.val = 1 / 2) ∧
  (0 ≤ cfg.mode ∧ cfg.mode ≤ 2 → (t.mode.toNat : ℤ) = cfg.mode) ∧
  (cfg.mode < 0 ∨ 2 < cfg.mode → t.mode = 2) ∧
  t.fullbright = cfg.fullbright ∧ t.motionCheck = cfg.motionCheck

/-- The pixel of an age at a position: `HIST[(BASE + age - 1) mod 5][y][x]` (42_history_store.md R156, 20_memory.md
R43). -/
def historyPixel (s : State) (age x y : Nat) : Option Pixel :=
  s.hist[(s.base.val + age - 1) % 5 * (s.lastW.toNat * s.lastH.toNat) + y * s.lastW.toNat + x]?

/-- The capacity check passes: `dest_capacity_w >= 2 * source_w` and `dest_capacity_h >= 2 * source_h`
(44_compositor.md R192). -/
abbrev CapacityHolds (o : RenderOperands) : Prop :=
  2 * o.sourceW.toNat ≤ o.capW.toNat ∧ 2 * o.sourceH.toNat ≤ o.capH.toNat

/-- Destination pixel `(u, v)` is the value of source position `(u div 2, v div 2)` (44_compositor.md R195, R197). -/
def DestinationShows (o : RenderOperands) (m : Memory) (val : Nat → Nat → Option Pixel) : Prop :=
  ∀ u < 2 * o.sourceW.toNat, ∀ v < 2 * o.sourceH.toNat,
    Memory.readPixel m (o.dest + (v * o.dstStride.toNat + u)) = val (u / 2) (v / 2)

/-- Every byte outside the cells `v * dst_stride + u`, `u < 2W`, `v < 2H`, reads as before (20_memory.md R42). -/
def OnlyDestinationWritten (o : RenderOperands) (before after : Memory) : Prop :=
  ∀ a : Nat,
    (∀ u < 2 * o.sourceW.toNat, ∀ v < 2 * o.sourceH.toNat,
      a ≠ 2 * (o.dest + (v * o.dstStride.toNat + u)) ∧ a ≠ 2 * (o.dest + (v * o.dstStride.toNat + u)) + 1) →
    Memory.read after a = Memory.read before a

/-- What a seed pass over a store of the frame's dimensions does to DST and HIST (44_compositor.md R194). -/
def SeedsFrom (o : RenderOperands) (s t : State) : Prop :=
  DestinationShows o t.mem (fun x y => Memory.readPixel s.mem (o.source + (y * o.srcStride.toNat + x))) ∧
  OnlyDestinationWritten o s.mem t.mem ∧
  t.hist.length = 5 * (o.sourceW.toNat * o.sourceH.toNat) ∧
  ∀ age, 1 ≤ age → age ≤ 5 → ∀ x < o.sourceW.toNat, ∀ y < o.sourceH.toNat,
    historyPixel t age x y = Memory.readPixel s.mem (o.source + (y * o.srcStride.toNat + x))

/-- What a blend pass does to DST and HIST: each block shows what PIXEL answers for its position's source pixel and
five ages; the source pixel becomes age 1 and every age becomes one older (44_compositor.md R196, R197). -/
def BlendsFrom (o : RenderOperands) (s t : State) : Prop :=
  (∀ x < o.sourceW.toNat, ∀ y < o.sourceH.toNat, ∃ (ps : Samples) (v : Pixel),
    Memory.readPixel s.mem (o.source + (y * o.srcStride.toNat + x)) = some ps.p0 ∧
    historyPixel s 1 x y = some ps.p1 ∧ historyPixel s 2 x y = some ps.p2 ∧ historyPixel s 3 x y = some ps.p3 ∧
    historyPixel s 4 x y = some ps.p4 ∧ historyPixel s 5 x y = some ps.p5 ∧
    exec (.pixel ps) s = .next { s with out := v, ret := .pixel v } ∧
    ∀ du < 2, ∀ dv < 2,
      Memory.readPixel t.mem (o.dest + ((2 * y + dv) * o.dstStride.toNat + (2 * x + du))) = some v) ∧
  OnlyDestinationWritten o s.mem t.mem ∧
  t.hist.length = s.hist.length ∧
  t.base.val = (s.base.val + 4) % 5 ∧
  ∀ x < o.sourceW.toNat, ∀ y < o.sourceH.toNat,
    historyPixel t 1 x y = Memory.readPixel s.mem (o.source + (y * o.srcStride.toNat + x)) ∧
    ∀ age, 1 ≤ age → age ≤ 4 → historyPixel t (age + 1) x y = historyPixel s age x y

/-- The uses of an operation that the spec does not mark `refuse`: a command but CONSTRUCT after a CONSTRUCT
(70_reset_and_hazards.md R252), a history call in its condition and range (42_history_store.md R150, R153, R158), a RENDER
or a pass under the host duties (20_memory.md R52; logs 14, 15), REPLPX into cells that DST holds (log 11), PIXEL in a
legal mode (43_pixel_blender.md R178). -/
def Allowed : Instr → State → Prop
  | .construct _, _ => True
  | .reload _, s => s.constructed = true
  | .toggle, s => s.constructed = true
  | .status, s => s.constructed = true
  | .render o, s => s.constructed = true ∧ SourceDuties o s.mem ∧ (CapacityHolds o → DestDuties o s.mem)
  | .build _ _, _ => True
  | .clampg _, _ => True
  | .clampr _, _ => True
  | .fwdent _ _, _ => True
  | .revent _ _, _ => True
  | .blendent _ _, _ => True
  | .resize _ _, _ => True
  | .seed frame, s => s.seeded = false ∧ frame.length = s.lastW.toNat * s.lastH.toNat
  | .pushpx x y _, s => s.seeded = true ∧ x.toNat < s.lastW.toNat ∧ y.toNat < s.lastH.toNat
  | .advance, s => s.seeded = true
  | .atAge age, s => s.seeded = true ∧ 1 ≤ age ∧ age ≤ 5
  | .unpack _, _ => True
  | .pack _ _ _, _ => True
  | .blend2 _ _, _ => True
  | .blend3 _ _ _, _ => True
  | .or3 _ _ _, _ => True
  | .pure _, _ => True
  | .elig3 _, _ => True
  | .alt2 _ _ _, _ => True
  | .twopath _ _ _, _ => True
  | .triout _ _ _, _ => True
  | .pixel _, s => s.mode ≠ 3
  | .replpx dest stride x y _, s =>
    ∀ du < 2, ∀ dv < 2, (Memory.readPixel s.mem
      (dest + ((2 * y.toNat + dv) * stride.toNat + (2 * x.toNat + du)))).isSome = true
  | .seedpass o, s =>
    SourceDuties o s.mem ∧ DestDuties o s.mem ∧ s.seeded = false ∧ s.lastW = o.sourceW ∧ s.lastH = o.sourceH
  | .blendpass o, s =>
    SourceDuties o s.mem ∧ DestDuties o s.mem ∧ s.seeded = true ∧ s.lastW = o.sourceW ∧ s.lastH = o.sourceH

/-- Run operations one after the other, stopping at the first stop. -/
def runAll : List Instr → State → Step
  | [], s => .next s
  | i :: is, s => andThen (exec i s) (runAll is)

/-- The source's `push(frame)`: PUSHPX at every position of a `w` by `h` frame, then ADVANCE (42_history_store.md
R157). -/
def pushFrame (w h : Nat) (frame : List Pixel) : List Instr :=
  (positions w h).map (fun q =>
    .pushpx (BitVec.ofNat 16 q.1) (BitVec.ofNat 16 q.2) (frame[q.2 * w + q.1]?.getD 0)) ++ [.advance]

/-- The operation codes of the operation map (30_encoding.md R82). -/
def tableCodes : List Nat :=
  [0x00, 0x01, 0x02, 0x03, 0x04, 0x10, 0x11, 0x12, 0x13, 0x14, 0x15, 0x20, 0x21, 0x22, 0x23, 0x24,
    0x30, 0x31, 0x32, 0x33, 0x34, 0x35, 0x36, 0x37, 0x38, 0x39, 0x3A, 0x40, 0x41, 0x42]

end Sys2Proof.Claims

open Sys2Proof Sys2Proof.Machine Sys2Proof.Claims

/-! ### Encoding and the step -/

/-- Every instruction's command decodes to it; a command that decodes has the code its instruction is encoded with; a
command decodes exactly when its code is in the operation map (30_encoding.md R82, R83 a; the codes are the spec's own
assignment, D18, and the operand slots are the model's, log 2). -/
def Obligations.DecodeAndEncodeAgree : Prop :=
  (∀ i : Instr, decode (encode i) = .ok i) ∧
  (∀ (c : Command) (i : Instr), decode c = .ok i → (encode i).op = c.op) ∧
  (∀ c : Command, (∃ i, decode c = .ok i) ↔ c.op.toNat ∈ tableCodes)

/-- Codes of the operation map, one of each class, decode to their instruction with every operand slot at zero
(30_encoding.md R82; the codes are the spec's own, D18; the zero slots are the model's, log 2). -/
def Obligations.TableWordsDecode : Prop :=
  decodeTableWord 8 0x02 = some .toggle ∧
  decodeTableWord 8 0x04 = some (.render ⟨0, 0, 0, 0, 0, 0, 0, 0⟩) ∧
  decodeTableWord 8 0x10 = some (.build 0 0) ∧
  decodeTableWord 8 0x24 = some (.atAge 0) ∧
  decodeTableWord 8 0x31 = some (.pack 0 0 0) ∧
  decodeTableWord 8 0x42 = some (.blendpass ⟨0, 0, 0, 0, 0, 0, 0, 0⟩) ∧
  decodeTableWord 8 0x05 = none ∧ decodeTableWord 8 0xFF = none

/-- A step whose next input is a command that decodes runs exactly the decoded instruction, on the state without that
input (00_scope.md R3: a command runs to completion; the inbox is the model's, log 3). -/
def Obligations.StepRunsTheDecodedInstruction : Prop :=
  ∀ (s : State) (c : Command) (rest : List Input) (i : Instr),
    s.inbox = .command c :: rest → decode c = .ok i → step s = exec i { s with inbox := rest }

/-- With no input the engine is idle and holds all its state (60_exceptions.md R238; the idle step is the model's
form, log 3). -/
def Obligations.IdleStepHoldsTheState : Prop :=
  ∀ s : State, s.inbox = [] → step s = .next s

/-- A host write puts its pixel into its cell, takes no other byte along, and touches no register (the model's input,
log 3). -/
def Obligations.HostWriteChangesOnlyItsCell : Prop :=
  ∀ (s : State) (cell : Nat) (v : Pixel) (rest : List Input), s.inbox = .poke cell [v] :: rest →
    ∃ t, step s = .next t ∧ t = { s with inbox := rest, mem := t.mem } ∧
      Memory.readPixel t.mem cell = some v ∧
      ∀ a, a ≠ 2 * cell → a ≠ 2 * cell + 1 → Memory.read t.mem a = Memory.read s.mem a

/-- A command whose code is not in the operation map is refused (30_encoding.md R83 a, decision D33). -/
def Obligations.ReservedCodesAreRefused : Prop :=
  ∀ (s : State) (c : Command) (rest : List Input),
    s.inbox = .command c :: rest → c.op.toNat ∉ tableCodes → step s = .refused (.reservedOp c.op)

/-- In every state with the invariant, a step is refused exactly where its next input is a command with a code outside
the operation map or a use of an operation that the spec forbids, and goes on to a next state everywhere else: with no
input, on a host write and on every allowed use ("a model gives them no step", 60_exceptions.md R232; 30_encoding.md R83;
42_history_store.md R158; 20_memory.md R52; 70_reset_and_hazards.md R252; decisions D7, D8, D25, D33). What `Allowed`
asks beyond those rules is the model's: logs 8, 11, 12, 13, 14, 15, 22. -/
def Obligations.RefusalsAreExactlyTheForbiddenUses : Prop :=
  ∀ s : State, s.Inv →
    ((∃ r, step s = .refused r) ↔
      ∃ c rest, s.inbox = .command c :: rest ∧
        (c.op.toNat ∉ tableCodes ∨ ∃ i, decode c = .ok i ∧ ¬ Allowed i s)) ∧
    ((∃ t, step s = .next t) ↔
      ∀ c rest, s.inbox = .command c :: rest → ∃ i, decode c = .ok i ∧ Allowed i s)

/-! ### The invariant and the reset -/

/-- Every step keeps the invariant: a legal mode, the tables of `GAMMA` and `RATIO`, five slots of the current
dimensions, canonical host memory (10_state.md R16, R20, R22; 45_mode_control.md R211). -/
def Obligations.EveryStepKeepsTheInvariant : Prop :=
  ∀ s t : State, s.Inv → step s = .next t → t.Inv

/-- The invariant holds after reset. -/
def Obligations.ResetMeetsTheInvariant : Prop := State.reset.Inv

/-- The state after reset, under the default configuration (10_state.md R26; the default configuration is the model's
choice of CONSTRUCT operand, log 4, and the zeros of BASE and of the last-seen dimensions are the spec's decisions D12
and D21). -/
def Obligations.ResetLeavesTheDefaults : Prop :=
  State.reset.gamma.val = 11 / 5 ∧ State.reset.ratio.val = 1 / 2 ∧
  TablesOf State.reset.lut (11 / 5) (1 / 2) ∧
  State.reset.mode = 2 ∧ State.reset.fullbright = false ∧ State.reset.motionCheck = false ∧
  State.reset.seeded = false ∧ State.reset.lastW = 0 ∧ State.reset.lastH = 0 ∧ State.reset.base = 0 ∧
  State.reset.hist = []

/-! ### CONSTRUCT, RELOAD, TOGGLE, STATUS -/

/-- CONSTRUCT on any state: the sanitised configuration, its tables, an empty unseeded store; `OUT_W`, `OUT_H`, the
latches, the cursor and host memory are left (45_mode_control.md R210, R216; decisions D4, D6, D12, D21). -/
def Obligations.ConstructResetsTheEngine : Prop :=
  ∀ (cfg : Cfg) (s : State), ∃ t, exec (.construct cfg) s = .next t ∧
    t.constructed = true ∧ Sanitised cfg t ∧ TablesOf t.lut t.gamma.val t.ratio.val ∧
    t.seeded = false ∧ t.lastW = 0 ∧ t.lastH = 0 ∧ t.base = 0 ∧ t.hist = [] ∧
    t = { s with
      constructed := t.constructed, gamma := t.gamma, ratio := t.ratio, lut := t.lut, mode := t.mode,
      fullbright := t.fullbright, motionCheck := t.motionCheck, seeded := t.seeded, lastW := t.lastW,
      lastH := t.lastH, base := t.base, hist := t.hist, drawn := t.drawn, ret := .none }

/-- RELOAD on a constructed engine replaces the parameters, the tables and the controls, and keeps the history, the
dimensions and everything else (45_mode_control.md R212, R216; decisions D4, D6, D16). -/
def Obligations.ReloadReplacesTheParametersOnly : Prop :=
  ∀ (cfg : Cfg) (s : State), s.constructed = true → ∃ t, exec (.reload cfg) s = .next t ∧
    Sanitised cfg t ∧ TablesOf t.lut t.gamma.val t.ratio.val ∧
    t = { s with
      gamma := t.gamma, ratio := t.ratio, lut := t.lut, mode := t.mode, fullbright := t.fullbright,
      motionCheck := t.motionCheck, ret := .none }

/-- TOGGLE: `MODE <- (MODE + 1) mod 3`; "it reads and writes nothing but `MODE`" (45_mode_control.md R213). -/
def Obligations.ToggleAdvancesTheModeOnly : Prop :=
  ∀ s : State, s.constructed = true → ∃ t, exec .toggle s = .next t ∧
    t.mode.toNat = (s.mode.toNat + 1) % 3 ∧ t = { s with mode := t.mode, ret := .none }

/-- Three toggles return a legal mode to its starting value (45_mode_control.md R214 a). -/
def Obligations.ThreeTogglesReturnTheMode : Prop :=
  ∀ s : State, s.constructed = true → s.mode ≠ 3 →
    runAll [.toggle, .toggle, .toggle] s = .next { s with ret := .none }

/-- STATUS returns the mode, the effective gamma and ratio, and the motion check, and writes no state
(45_mode_control.md R215, 30_encoding.md R78; decision D15; the result field is the model's, log 10). -/
def Obligations.StatusReportsTheEffectiveValues : Prop :=
  ∀ s : State, s.constructed = true →
    exec .status s = .next { s with ret := .status s.mode s.gamma.val s.ratio.val s.motionCheck }

/-- Before a CONSTRUCT every other command is refused (70_reset_and_hazards.md R252, decision D25). -/
def Obligations.CommandsBeforeConstructAreRefused : Prop :=
  ∀ (s : State) (cfg : Cfg) (o : RenderOperands), s.constructed = false →
    exec (.reload cfg) s = .refused .notConstructed ∧ exec .toggle s = .refused .notConstructed ∧
    exec .status s = .refused .notConstructed ∧ exec (.render o) s = .refused .notConstructed

/-! ### RENDER and the passes -/

/-- The first frame after construction or after a change of dimensions: RENDER completes, DST is the 2x replicated
source "for any mode/flags combination", nothing else of host memory is written, the store is seeded with the source at
every age, the result is `(2 * source_w, 2 * source_h)` (44_compositor.md R194, R198, R201). The host's duties are the
spec's own, D7 and D8, and so is the zero of BASE after a change of dimensions, D12. -/
def Obligations.RenderSeedsTheFirstFrame : Prop :=
  ∀ (o : RenderOperands) (s : State), s.constructed = true → SourceDuties o s.mem → DestDuties o s.mem →
    CapacityHolds o → (s.seeded = false ∨ s.lastW ≠ o.sourceW ∨ s.lastH ≠ o.sourceH) →
    ∃ t, exec (.render o) s = .next t ∧ SeedsFrom o s t ∧
      t = { s with
        seeded := true, lastW := o.sourceW, lastH := o.sourceH,
        base := if s.lastW = o.sourceW ∧ s.lastH = o.sourceH then s.base else 0, hist := t.hist,
        outW := BitVec.ofNat 17 (2 * o.sourceW.toNat), outH := BitVec.ofNat 17 (2 * o.sourceH.toNat),
        x := t.x, y := t.y, mem := t.mem, drawn := t.drawn,
        ret := .size (BitVec.ofNat 17 (2 * o.sourceW.toNat)) (BitVec.ofNat 17 (2 * o.sourceH.toNat)) }

/-- A later frame of the same dimensions: RENDER completes, every block of DST shows what PIXEL answers for its
position, nothing else of host memory is written, the frame is pushed, the result is `(2 * source_w, 2 * source_h)`
(44_compositor.md R196, R197, R198). The host's duties are the spec's own, D7 and D8. -/
def Obligations.RenderBlendsALaterFrame : Prop :=
  ∀ (o : RenderOperands) (s : State), s.Inv → s.constructed = true → SourceDuties o s.mem → DestDuties o s.mem →
    CapacityHolds o → s.seeded = true → s.lastW = o.sourceW → s.lastH = o.sourceH →
    ∃ t, exec (.render o) s = .next t ∧ BlendsFrom o s t ∧
      t = { s with
        base := t.base, hist := t.hist,
        outW := BitVec.ofNat 17 (2 * o.sourceW.toNat), outH := BitVec.ofNat 17 (2 * o.sourceH.toNat),
        p := t.p, out := t.out, x := t.x, y := t.y, mem := t.mem, drawn := t.drawn,
        ret := .size (BitVec.ofNat 17 (2 * o.sourceW.toNat)) (BitVec.ofNat 17 (2 * o.sourceH.toNat)) }

/-- With too little capacity and unchanged dimensions RENDER returns `(0, 0)` and performs no writes: not to DST, not to
HIST, nor to any other register (44_compositor.md R192; 60_exceptions.md R230). -/
def Obligations.RenderTooSmallWritesNothing : Prop :=
  ∀ (o : RenderOperands) (s : State), s.constructed = true → SourceDuties o s.mem →
    (o.capW.toNat < 2 * o.sourceW.toNat ∨ o.capH.toNat < 2 * o.sourceH.toNat) →
    s.lastW = o.sourceW → s.lastH = o.sourceH →
    exec (.render o) s = .next { s with outW := 0, outH := 0, ret := .size 0 0 }

/-- With too little capacity and changed dimensions RENDER first resizes the store, which is left unseeded, then returns
`(0, 0)`; DST is untouched (44_compositor.md R191, R192, R200 b; the order is decision D22, BASE is D12). -/
def Obligations.RenderTooSmallAfterAResize : Prop :=
  ∀ (o : RenderOperands) (s : State), s.constructed = true → SourceDuties o s.mem →
    (o.capW.toNat < 2 * o.sourceW.toNat ∨ o.capH.toNat < 2 * o.sourceH.toNat) →
    (s.lastW ≠ o.sourceW ∨ s.lastH ≠ o.sourceH) →
    ∃ t, exec (.render o) s = .next t ∧ t.hist.length = 5 * (o.sourceW.toNat * o.sourceH.toNat) ∧
      t = { s with
        seeded := false, lastW := o.sourceW, lastH := o.sourceH, base := 0, hist := t.hist, outW := 0, outH := 0,
        drawn := t.drawn, ret := .size 0 0 }

/-- In mode Off a RENDER that passes the capacity check shows the 2x replicated source, whether or not the store is
seeded, and still records it as age 1 (43_pixel_blender.md R175, R179). -/
def Obligations.RenderInModeOffPassesThrough : Prop :=
  ∀ (o : RenderOperands) (s : State), s.Inv → s.constructed = true → SourceDuties o s.mem → DestDuties o s.mem →
    CapacityHolds o → s.mode = 0 →
    ∃ t, exec (.render o) s = .next t ∧
      DestinationShows o t.mem (fun x y => Memory.readPixel s.mem (o.source + (y * o.srcStride.toNat + x))) ∧
      ∀ x < o.sourceW.toNat, ∀ y < o.sourceH.toNat,
        historyPixel t 1 x y = Memory.readPixel s.mem (o.source + (y * o.srcStride.toNat + x))

/-- A RENDER, SEEDPASS or BLENDPASS that breaks a host duty is refused: a duty on the source always, one on the
destination where it is written (20_memory.md R52; decisions D7, D8; which refusal is the model's, log 14). -/
def Obligations.BrokenHostDutiesAreRefused : Prop :=
  ∀ (o : RenderOperands) (s : State), s.constructed = true →
    (¬ SourceDuties o s.mem → (∃ r, exec (.render o) s = .refused r) ∧ (∃ r, exec (.seedpass o) s = .refused r) ∧
      ∃ r, exec (.blendpass o) s = .refused r) ∧
    (¬ DestDuties o s.mem → (CapacityHolds o → ∃ r, exec (.render o) s = .refused r) ∧
      (∃ r, exec (.seedpass o) s = .refused r) ∧ ∃ r, exec (.blendpass o) s = .refused r)

/-- SEEDPASS on an unseeded store of the frame's dimensions (44_compositor.md R194). The host's duties are the spec's
own, D7 and D8. -/
def Obligations.SeedpassSeedsAndReplicates : Prop :=
  ∀ (o : RenderOperands) (s : State), SourceDuties o s.mem → DestDuties o s.mem → s.seeded = false →
    s.lastW = o.sourceW → s.lastH = o.sourceH →
    ∃ t, exec (.seedpass o) s = .next t ∧ SeedsFrom o s t ∧
      t = { s with
        seeded := true, hist := t.hist, x := t.x, y := t.y, mem := t.mem, drawn := t.drawn, ret := .none }

/-- BLENDPASS on a seeded store of the frame's dimensions (44_compositor.md R196, R197). The host's duties are the
spec's own, D7 and D8. -/
def Obligations.BlendpassBlendsAndPushes : Prop :=
  ∀ (o : RenderOperands) (s : State), s.Inv → SourceDuties o s.mem → DestDuties o s.mem → s.seeded = true →
    s.lastW = o.sourceW → s.lastH = o.sourceH →
    ∃ t, exec (.blendpass o) s = .next t ∧ BlendsFrom o s t ∧
      t = { s with
        base := t.base, hist := t.hist, p := t.p, out := t.out, x := t.x, y := t.y, mem := t.mem,
        drawn := t.drawn, ret := .none }

/-- The passes stop, by name, on a store in the wrong condition or of other dimensions (42_history_store.md R158,
44_compositor.md R196; decision D25; the names are the model's, log 15). -/
def Obligations.PassesInTheWrongConditionAreRefused : Prop :=
  ∀ (o : RenderOperands) (s : State), SourceDuties o s.mem → DestDuties o s.mem →
    (s.seeded = true → exec (.seedpass o) s = .refused .alreadySeeded) ∧
    (s.seeded = false → (s.lastW ≠ o.sourceW ∨ s.lastH ≠ o.sourceH) →
      exec (.seedpass o) s = .refused .frameSize) ∧
    (s.seeded = false → exec (.blendpass o) s = .refused .unseeded) ∧
    (s.seeded = true → (s.lastW ≠ o.sourceW ∨ s.lastH ≠ o.sourceH) →
      exec (.blendpass o) s = .refused .frameSize)

/-- REPLPX writes its value into the four cells of the block, where DST holds them, and into no other byte; where DST
does not hold one of them it is refused (44_compositor.md R195, 20_memory.md R42, R52; the base and stride operands are
the model's, log 11, the buffers log 8). -/
def Obligations.ReplpxWritesOneBlock : Prop :=
  ∀ (dest : Nat) (stride x y : Dim) (v : Pixel) (s : State),
    ((∀ du < 2, ∀ dv < 2, (Memory.readPixel s.mem
        (dest + ((2 * y.toNat + dv) * stride.toNat + (2 * x.toNat + du)))).isSome = true) →
      ∃ t, exec (.replpx dest stride x y v) s = .next t ∧ t = { s with mem := t.mem, ret := .none } ∧
        (∀ du < 2, ∀ dv < 2, Memory.readPixel t.mem
          (dest + ((2 * y.toNat + dv) * stride.toNat + (2 * x.toNat + du))) = some v) ∧
        ∀ a : Nat, (∀ du < 2, ∀ dv < 2,
            a ≠ 2 * (dest + ((2 * y.toNat + dv) * stride.toNat + (2 * x.toNat + du))) ∧
            a ≠ 2 * (dest + ((2 * y.toNat + dv) * stride.toNat + (2 * x.toNat + du))) + 1) →
          Memory.read t.mem a = Memory.read s.mem a) ∧
    ((∃ du < 2, ∃ dv < 2, Memory.readPixel s.mem
        (dest + ((2 * y.toNat + dv) * stride.toNat + (2 * x.toNat + du))) = none) →
      exec (.replpx dest stride x y v) s = .refused .dstExtent)

/-! ### The LUT Manager -/

/-- BUILD floors gamma, clamps ratio, and replaces `GAMMA`, `RATIO` and the six tables by those of the clamped
parameters; it writes nothing else (40_lut_builder.md R100 to R109; real arithmetic and ties upward are decisions D1 to
D3; gamma and ratio are rationals, log 1). -/
def Obligations.BuildPublishesTheTables : Prop :=
  ∀ (gamma ratio : ℚ) (s : State), ∃ t, exec (.build gamma ratio) s = .next t ∧
    t.gamma.val = max gamma 1 ∧ t.ratio.val = min (max ratio (1 / 2)) 1 ∧
    TablesOf t.lut t.gamma.val t.ratio.val ∧
    t = { s with gamma := t.gamma, ratio := t.ratio, lut := t.lut, ret := .tables t.lut }

/-- CLAMPG: `max(gamma, 1.0)`; it writes nothing but the result (40_lut_builder.md R101). -/
def Obligations.ClampgFloorsAtOne : Prop :=
  ∀ (gamma : ℚ) (s : State), exec (.clampg gamma) s = .next { s with ret := .real (max gamma 1) }

/-- CLAMPR: `clamp(ratio, 0.5, 1.0)`; it writes nothing but the result (40_lut_builder.md R102). -/
def Obligations.ClamprClampsToTheUnitHalf : Prop :=
  ∀ (ratio : ℚ) (s : State), exec (.clampr ratio) s = .next { s with ret := .real (min (max ratio (1 / 2)) 1) }

/-- FWDENT is the rounded, clamped real value of R104, with the real power, for both widths, every index and every
gamma (40_lut_builder.md R104; real arithmetic and ties upward are decisions D1 to D3; gamma is rational, log 1). -/
def Obligations.FwdentIsTheRealForwardEntry : Prop :=
  ∀ (g : Gamma) (s : State),
    (∀ i : BitVec 5, ∃ v : Nat, exec (.fwdent (.w5 i) g) s = .next { s with ret := .entry v } ∧
      (v : ℤ) = rounded 31 (forwardValue 31 i.toNat g.val)) ∧
    (∀ i : BitVec 6, ∃ v : Nat, exec (.fwdent (.w6 i) g) s = .next { s with ret := .entry v } ∧
      (v : ℤ) = rounded 63 (forwardValue 63 i.toNat g.val))

/-- REVENT is the rounded, clamped real value of R106, with the real power, for both widths, every index and every
gamma (40_lut_builder.md R106; real arithmetic and ties upward are decisions D1 to D3; gamma is rational, log 1). -/
def Obligations.ReventIsTheRealReverseEntry : Prop :=
  ∀ (g : Gamma) (s : State),
    (∀ i : BitVec 5, ∃ v : Nat, exec (.revent (.w5 i) g) s = .next { s with ret := .entry v } ∧
      (v : ℤ) = rounded 31 (reverseValue 31 i.toNat g.val)) ∧
    (∀ i : BitVec 6, ∃ v : Nat, exec (.revent (.w6 i) g) s = .next { s with ret := .entry v } ∧
      (v : ℤ) = rounded 63 (reverseValue 63 i.toNat g.val))

/-- BLENDENT: the forward entry at the rounded weighted average of the two reverse entries, which is an index of the
table, for both widths and any tables (40_lut_builder.md R109, R110 a; ties upward is decision D2). -/
def Obligations.BlendentAveragesThroughTheTables : Prop :=
  ∀ (r : Ratio) (s : State),
    (∀ (i j : BitVec 5) (forward reverse : Table 5), ∃ k : BitVec 5,
      (k.toNat : ℤ) = ⌊((Table.at reverse i).toNat : ℚ) * (1 - r.val) + ((Table.at reverse j).toNat : ℚ) * r.val
        + 1 / 2⌋ ∧
      exec (.blendent (.w5 i j forward reverse) r) s = .next { s with ret := .entry (Table.at forward k).toNat }) ∧
    (∀ (i j : BitVec 6) (forward reverse : Table 6), ∃ k : BitVec 6,
      (k.toNat : ℤ) = ⌊((Table.at reverse i).toNat : ℚ) * (1 - r.val) + ((Table.at reverse j).toNat : ℚ) * r.val
        + 1 / 2⌋ ∧
      exec (.blendent (.w6 i j forward reverse) r) s = .next { s with ret := .entry (Table.at forward k).toNat })

/-- The forward and reverse tables of every BUILD are monotonically non-decreasing (40_lut_builder.md R112). -/
def Obligations.BuiltTablesAreMonotone : Prop :=
  ∀ (gamma ratio : ℚ) (s t : State), exec (.build gamma ratio) s = .next t →
    (∀ i j : BitVec 5, i.toNat ≤ j.toNat →
      (Table.at t.lut.forward5 i).toNat ≤ (Table.at t.lut.forward5 j).toNat ∧
      (Table.at t.lut.reverse5 i).toNat ≤ (Table.at t.lut.reverse5 j).toNat) ∧
    (∀ i j : BitVec 6, i.toNat ≤ j.toNat →
      (Table.at t.lut.forward6 i).toNat ≤ (Table.at t.lut.forward6 j).toNat ∧
      (Table.at t.lut.reverse6 i).toNat ≤ (Table.at t.lut.reverse6 j).toNat)

/-- The ends of every built table: `forward[0] = reverse[0] = 0`, `forward[dim-1] = reverse[dim-1] = dim-1`,
`blend[0][0] = 0`, `blend[dim-1][dim-1] = dim-1` (40_lut_builder.md R105, R107, R110 f: derived by the spec). -/
def Obligations.BuiltTablesHaveFixedEnds : Prop :=
  ∀ (gamma ratio : ℚ) (s t : State), exec (.build gamma ratio) s = .next t →
    Table.at t.lut.forward5 0 = 0 ∧ Table.at t.lut.forward5 31 = 31 ∧
    Table.at t.lut.reverse5 0 = 0 ∧ Table.at t.lut.reverse5 31 = 31 ∧
    BlendTable.at t.lut.blend5 0 0 = 0 ∧ BlendTable.at t.lut.blend5 31 31 = 31 ∧
    Table.at t.lut.forward6 0 = 0 ∧ Table.at t.lut.forward6 63 = 63 ∧
    Table.at t.lut.reverse6 0 = 0 ∧ Table.at t.lut.reverse6 63 = 63 ∧
    BlendTable.at t.lut.blend6 0 0 = 0 ∧ BlendTable.at t.lut.blend6 63 63 = 63

/-- The diagonal of every built blend table is `forward[reverse[i]]`, whatever the ratio, and not `i` in general
(40_lut_builder.md R113, conflict C2). -/
def Obligations.BlendDiagonalIsTheRoundTrip : Prop :=
  ∀ (gamma ratio : ℚ) (s t : State), exec (.build gamma ratio) s = .next t →
    (∀ i : BitVec 5, BlendTable.at t.lut.blend5 i i = Table.at t.lut.forward5 (Table.at t.lut.reverse5 i)) ∧
    (∀ i : BitVec 6, BlendTable.at t.lut.blend6 i i = Table.at t.lut.forward6 (Table.at t.lut.reverse6 i))

/-- With ratio 1 a built blend table ignores the older sample; with ratio 1/2 it is symmetric (40_lut_builder.md R110
c, d: derived by the spec). -/
def Obligations.BlendTableAtTheRatioBounds : Prop :=
  ∀ (gamma ratio : ℚ) (s t : State), exec (.build gamma ratio) s = .next t →
    (1 ≤ ratio →
      (∀ i j : BitVec 5, BlendTable.at t.lut.blend5 i j = Table.at t.lut.forward5 (Table.at t.lut.reverse5 j)) ∧
      (∀ i j : BitVec 6, BlendTable.at t.lut.blend6 i j = Table.at t.lut.forward6 (Table.at t.lut.reverse6 j))) ∧
    (ratio ≤ 1 / 2 →
      (∀ i j : BitVec 5, BlendTable.at t.lut.blend5 i j = BlendTable.at t.lut.blend5 j i) ∧
      (∀ i j : BitVec 6, BlendTable.at t.lut.blend6 i j = BlendTable.at t.lut.blend6 j i))

/-! ### The history store -/

/-- RESIZE, in either condition: unseeded, the new dimensions, `width * height * 5` pixels whose contents no statement
fixes; nothing else changes (42_history_store.md R151; the zero of BASE is decision D12, the contents D24, log 7). -/
def Obligations.ResizeUnseedsTheStore : Prop :=
  ∀ (w h : Dim) (s : State), ∃ t, exec (.resize w h) s = .next t ∧
    t.hist.length = w.toNat * h.toNat * 5 ∧
    t = { s with
      seeded := false, lastW := w, lastH := h, base := 0, hist := t.hist, drawn := t.drawn, ret := .none }

/-- SEED of a frame of the store's size into an unseeded store: seeded, and AT answers the frame at every age, whatever
BASE is; nothing else changes (42_history_store.md R153). -/
def Obligations.SeedFillsEveryAge : Prop :=
  ∀ (frame : List Pixel) (s : State), s.seeded = false → frame.length = s.lastW.toNat * s.lastH.toNat →
    ∃ t, exec (.seed frame) s = .next t ∧
      t = { s with seeded := true, hist := t.hist, ret := .none } ∧
      t.hist.length = 5 * (s.lastW.toNat * s.lastH.toNat) ∧
      ∀ age, 1 ≤ age → age ≤ 5 → exec (.atAge age) t = .next { t with ret := .frame frame }

/-- PUSHPX at a position of the grid of a seeded store writes the pixel into the slot of age 5 at that position, and
leaves every other cell of the store, BASE and everything else (42_history_store.md R154; the layout is decision
D11). -/
def Obligations.PushpxWritesTheOldestSlot : Prop :=
  ∀ (x y : Dim) (v : Pixel) (s : State), s.Inv → s.seeded = true → x.toNat < s.lastW.toNat →
    y.toNat < s.lastH.toNat →
    ∃ t, exec (.pushpx x y v) s = .next t ∧ t = { s with hist := t.hist, ret := .none } ∧
      historyPixel t 5 x.toNat y.toNat = some v ∧
      ∀ k, k ≠ (s.base.val + 4) % 5 * (s.lastW.toNat * s.lastH.toNat) + y.toNat * s.lastW.toNat + x.toNat →
        t.hist[k]? = s.hist[k]?

/-- ADVANCE on a seeded store: `BASE <- (BASE + 4) mod 5`, so that what was age 5 is age 1 and every other age is one
older; the store's cells and everything else are left (42_history_store.md R155, R156; decision D13). R155 makes ADVANCE
valid only after PUSHPX at every position; that it goes on in every seeded store is the model's (log 13, DEDUCED). -/
def Obligations.AdvanceRotatesTheAges : Prop :=
  ∀ s : State, s.seeded = true → ∃ t, exec .advance s = .next t ∧
    t = { s with base := t.base, ret := .none } ∧ t.base.val = (s.base.val + 4) % 5 ∧
    ∀ x y, historyPixel t 1 x y = historyPixel s 5 x y ∧
      ∀ age, 1 ≤ age → age ≤ 4 → historyPixel t (age + 1) x y = historyPixel s age x y

/-- AT of an age 1 to 5 on a seeded store returns the frame of slot `(BASE + age - 1) mod 5`, and writes nothing
(42_history_store.md R156; the layout is decision D11). -/
def Obligations.AtReturnsTheFrameOfAnAge : Prop :=
  ∀ (age : Nat) (s : State), s.Inv → s.seeded = true → 1 ≤ age → age ≤ 5 →
    ∃ frame, exec (.atAge age) s = .next { s with ret := .frame frame } ∧
      frame.length = s.lastW.toNat * s.lastH.toNat ∧
      ∀ x < s.lastW.toNat, ∀ y < s.lastH.toNat, frame[y * s.lastW.toNat + x]? = historyPixel s age x y

/-- History calls in the wrong condition, with an age outside 1..5, with a position outside the grid or a frame of
another size are refused (42_history_store.md R158, decision D25; the names of the refusals are the model's). The clause
on a frame of another size is not in R158: it is the model's inference from the operand of R153 (log 22, DEDUCED). -/
def Obligations.InvalidHistoryCallsAreRefused : Prop :=
  ∀ (s : State) (frame : List Pixel) (x y : Dim) (v : Pixel) (age : Nat),
    (s.seeded = true → exec (.seed frame) s = .refused .alreadySeeded) ∧
    (s.seeded = false → frame.length ≠ s.lastW.toNat * s.lastH.toNat →
      exec (.seed frame) s = .refused .frameSize) ∧
    (s.seeded = false → exec (.pushpx x y v) s = .refused .unseeded ∧ exec .advance s = .refused .unseeded ∧
      exec (.atAge age) s = .refused .unseeded) ∧
    (s.seeded = true → (s.lastW.toNat ≤ x.toNat ∨ s.lastH.toNat ≤ y.toNat) →
      exec (.pushpx x y v) s = .refused .outsideHistory) ∧
    (s.seeded = true → (age = 0 ∨ 5 < age) → exec (.atAge age) s = .refused .ageRange)

/-- The net effect of `push(frame)`, PUSHPX at every position then ADVANCE, on a seeded store: the frame is age 1, every
age is one older, age 5 is discarded (42_history_store.md R157). -/
def Obligations.PushFrameShiftsTheAges : Prop :=
  ∀ (frame : List Pixel) (s : State), s.Inv → s.seeded = true →
    frame.length = s.lastW.toNat * s.lastH.toNat →
    ∃ t, runAll (pushFrame s.lastW.toNat s.lastH.toNat frame) s = .next t ∧
      exec (.atAge 1) t = .next { t with ret := .frame frame } ∧
      ∀ age, 1 ≤ age → age ≤ 4 → ∀ old, exec (.atAge age) s = .next { s with ret := .frame old } →
        exec (.atAge (age + 1)) t = .next { t with ret := .frame old }

/-- After five frames pushed in order into a freshly seeded store, `at(1) = F5` to `at(5) = F1` (42_history_store.md
R159). -/
def Obligations.FivePushesFillTheHistory : Prop :=
  ∀ (seed f1 f2 f3 f4 f5 : List Pixel) (s : State), s.Inv → s.seeded = false →
    seed.length = s.lastW.toNat * s.lastH.toNat → f1.length = s.lastW.toNat * s.lastH.toNat →
    f2.length = s.lastW.toNat * s.lastH.toNat → f3.length = s.lastW.toNat * s.lastH.toNat →
    f4.length = s.lastW.toNat * s.lastH.toNat → f5.length = s.lastW.toNat * s.lastH.toNat →
    ∃ t, runAll ([.seed seed] ++ pushFrame s.lastW.toNat s.lastH.toNat f1 ++
        pushFrame s.lastW.toNat s.lastH.toNat f2 ++ pushFrame s.lastW.toNat s.lastH.toNat f3 ++
        pushFrame s.lastW.toNat s.lastH.toNat f4 ++ pushFrame s.lastW.toNat s.lastH.toNat f5) s = .next t ∧
      exec (.atAge 1) t = .next { t with ret := .frame f5 } ∧
      exec (.atAge 2) t = .next { t with ret := .frame f4 } ∧
      exec (.atAge 3) t = .next { t with ret := .frame f3 } ∧
      exec (.atAge 4) t = .next { t with ret := .frame f2 } ∧
      exec (.atAge 5) t = .next { t with ret := .frame f1 }

/-! ### The channel datapath -/

/-- UNPACK returns `p[15:11]`, `p[10:5]`, `p[4:0]` and writes nothing else (41_blend_lookup.md R130). -/
def Obligations.UnpackReturnsTheFields : Prop :=
  ∀ (p : Pixel) (s : State), ∃ (r : BitVec 5) (g : BitVec 6) (b : BitVec 5),
    exec (.unpack p) s = .next { s with ret := .channels r g b } ∧
    r.toNat = red p ∧ g.toNat = green p ∧ b.toNat = blue p

/-- PACK returns `R * 2048 + G * 32 + B` and writes nothing else (41_blend_lookup.md R131). -/
def Obligations.PackPlacesTheFields : Prop :=
  ∀ (r : BitVec 5) (g : BitVec 6) (b : BitVec 5) (s : State), ∃ p : Pixel,
    exec (.pack r g b) s = .next { s with ret := .pixel p } ∧
    p.toNat = r.toNat * 2048 + g.toNat * 32 + b.toNat

/-- PACK and UNPACK are inverse, each way (41_blend_lookup.md R132: derived by the spec). -/
def Obligations.PackAndUnpackAreInverse : Prop :=
  (∀ (p : Pixel) (r : BitVec 5) (g : BitVec 6) (b : BitVec 5) (s : State),
    exec (.unpack p) s = .next { s with ret := .channels r g b } →
    exec (.pack r g b) s = .next { s with ret := .pixel p }) ∧
  (∀ (p : Pixel) (r : BitVec 5) (g : BitVec 6) (b : BitVec 5) (s : State),
    exec (.pack r g b) s = .next { s with ret := .pixel p } →
    exec (.unpack p) s = .next { s with ret := .channels r g b })

/-- BLEND2 packs, per channel, the entry at flat index `prev * dim + cur` of the channel's blend table, and writes
nothing but the result (41_blend_lookup.md R134). -/
def Obligations.BlendTwoLooksUpTheTables : Prop :=
  ∀ (prev cur : Pixel) (s : State), ∃ (r : BitVec 5) (g : BitVec 6) (b : BitVec 5) (p : Pixel),
    s.lut.blend5.toList[red prev * 32 + red cur]? = some r ∧
    s.lut.blend6.toList[green prev * 64 + green cur]? = some g ∧
    s.lut.blend5.toList[blue prev * 32 + blue cur]? = some b ∧
    p.toNat = r.toNat * 2048 + g.toNat * 32 + b.toNat ∧
    exec (.blend2 prev cur) s = .next { s with ret := .pixel p }

/-- BLEND3 packs, per channel, `forward[(reverse[a] + reverse[b] + reverse[c]) div 3]`, and writes nothing but the
result (41_blend_lookup.md R136). -/
def Obligations.BlendThreeAveragesTheTables : Prop :=
  ∀ (pa pb pc : Pixel) (s : State), ∃ (ra rb rc ba bb bc r b : BitVec 5) (ga gb gc g : BitVec 6) (p : Pixel),
    s.lut.reverse5.toList[red pa]? = some ra ∧ s.lut.reverse5.toList[red pb]? = some rb ∧
    s.lut.reverse5.toList[red pc]? = some rc ∧
    s.lut.forward5.toList[(ra.toNat + rb.toNat + rc.toNat) / 3]? = some r ∧
    s.lut.reverse6.toList[green pa]? = some ga ∧ s.lut.reverse6.toList[green pb]? = some gb ∧
    s.lut.reverse6.toList[green pc]? = some gc ∧
    s.lut.forward6.toList[(ga.toNat + gb.toNat + gc.toNat) / 3]? = some g ∧
    s.lut.reverse5.toList[blue pa]? = some ba ∧ s.lut.reverse5.toList[blue pb]? = some bb ∧
    s.lut.reverse5.toList[blue pc]? = some bc ∧
    s.lut.forward5.toList[(ba.toNat + bb.toNat + bc.toNat) / 3]? = some b ∧
    p.toNat = r.toNat * 2048 + g.toNat * 32 + b.toNat ∧
    exec (.blend3 pa pb pc) s = .next { s with ret := .pixel p }

/-- OR3 returns the bitwise OR of the three pixels and writes nothing else (41_blend_lookup.md R138). -/
def Obligations.OrThreeIsTheBitwiseOr : Prop :=
  ∀ (pa pb pc : Pixel) (s : State), ∃ p : Pixel, exec (.or3 pa pb pc) s = .next { s with ret := .pixel p } ∧
    ∀ k < 16, p.getLsbD k = (pa.getLsbD k || pb.getLsbD k || pc.getLsbD k)

/-! ### The per-pixel evaluation -/

/-- PURE answers whether at most one channel is non-zero, and writes nothing but the result (43_pixel_blender.md
R170). -/
def Obligations.PureMeansAtMostOneChannel : Prop :=
  ∀ (p : Pixel) (s : State), ∃ b : Bool, exec (.pure p) s = .next { s with ret := .bit b } ∧
    (b = true ↔ AtMostOneChannel p)

/-- ELIG3 answers whether `P[0]`, `P[1]`, `P[2]` are pure and equal to `P[3]`, `P[4]`, `P[5]`, and writes nothing but
the result (43_pixel_blender.md R172). -/
def Obligations.EligibilityIsAPureThreePeriod : Prop :=
  ∀ (ps : Samples) (s : State), ∃ b : Bool, exec (.elig3 ps) s = .next { s with ret := .bit b } ∧
    (b = true ↔ AtMostOneChannel ps.p0 ∧ AtMostOneChannel ps.p1 ∧ AtMostOneChannel ps.p2 ∧
      ps.p0 = ps.p3 ∧ ps.p1 = ps.p4 ∧ ps.p2 = ps.p5)

/-- ALT2 answers the two-step alternation pattern, and writes nothing but the result (43_pixel_blender.md R173). -/
def Obligations.AlternationIsTheTwoStepPattern : Prop :=
  ∀ (p0 p1 p2 : Pixel) (s : State), ∃ b : Bool, exec (.alt2 p0 p1 p2) s = .next { s with ret := .bit b } ∧
    (b = true ↔ p0 = p2 ∧ p0 ≠ p1 ∧ p1 ≠ p2)

/-- TWOPATH is the BLEND2 of `P[1]` and `P[0]`, except that with the motion check set and no alternation it is `P[0]`;
it writes nothing but the result (43_pixel_blender.md R174). -/
def Obligations.TwoPathIsGatedByMotionCheck : Prop :=
  ∀ (p0 p1 p2 : Pixel) (s : State), ∃ b : Pixel, exec (.blend2 p1 p0) s = .next { s with ret := .pixel b } ∧
    (s.motionCheck = false ∨ (p0 = p2 ∧ p0 ≠ p1 ∧ p1 ≠ p2) →
      exec (.twopath p0 p1 p2) s = .next { s with ret := .pixel b }) ∧
    (s.motionCheck = true ∧ ¬ (p0 = p2 ∧ p0 ≠ p1 ∧ p1 ≠ p2) →
      exec (.twopath p0 p1 p2) s = .next { s with ret := .pixel p0 })

/-- TRIOUT answers as OR3 with FULLBRIGHT set and as BLEND3 without (43_pixel_blender.md R176). -/
def Obligations.TriOutFollowsFullbright : Prop :=
  ∀ (p0 p1 p2 : Pixel) (s : State),
    (∃ p, exec (.triout p0 p1 p2) s = .next { s with ret := .pixel p }) ∧
    (s.fullbright = true → exec (.triout p0 p1 p2) s = exec (.or3 p0 p1 p2) s) ∧
    (s.fullbright = false → exec (.triout p0 p1 p2) s = exec (.blend3 p0 p1 p2) s)

/-- PIXEL: the complete decision by mode, into `OUT`; in the reserved mode 3 it is refused (43_pixel_blender.md
R178). -/
def Obligations.PixelDispatchesByMode : Prop :=
  ∀ (ps : Samples) (s : State),
    (s.mode = 0 → exec (.pixel ps) s = .next { s with out := ps.p0, ret := .pixel ps.p0 }) ∧
    (∀ v e, exec (.twopath ps.p0 ps.p1 ps.p2) s = .next { s with ret := .pixel v } →
      exec (.elig3 ps) s = .next { s with ret := .bit e } →
      s.mode = 1 ∨ (s.mode = 2 ∧ e = false) → exec (.pixel ps) s = .next { s with out := v, ret := .pixel v }) ∧
    (∀ v, exec (.triout ps.p0 ps.p1 ps.p2) s = .next { s with ret := .pixel v } →
      exec (.elig3 ps) s = .next { s with ret := .bit true } →
      s.mode = 2 → exec (.pixel ps) s = .next { s with out := v, ret := .pixel v }) ∧
    (s.mode ≠ 3 → ∃ v, exec (.pixel ps) s = .next { s with out := v, ret := .pixel v }) ∧
    (s.mode = 3 → exec (.pixel ps) s = .refused .reservedMode)

/-! ### Whole-machine rules -/

/-- Each register has only its writers: the parameters and tables are written only by CONSTRUCT, RELOAD and BUILD, the
controls only by CONSTRUCT, RELOAD and (the mode) TOGGLE, the dimensions only by CONSTRUCT, RESIZE and RENDER, the result
pair only by RENDER (10_state.md R14 to R20, R23, R27; BUILD and RESIZE issued directly are the component operations of
30_encoding.md R82). -/
def Obligations.RegistersHaveOnlyTheirWriters : Prop :=
  ∀ (i : Instr) (s t : State), exec i s = .next t →
    ((∀ c, i ≠ .construct c) → (∀ c, i ≠ .reload c) → (∀ g r, i ≠ .build g r) →
      t.gamma = s.gamma ∧ t.ratio = s.ratio ∧ t.lut = s.lut) ∧
    ((∀ c, i ≠ .construct c) → (∀ c, i ≠ .reload c) →
      t.fullbright = s.fullbright ∧ t.motionCheck = s.motionCheck ∧ (i ≠ .toggle → t.mode = s.mode)) ∧
    ((∀ c, i ≠ .construct c) → (∀ w h, i ≠ .resize w h) → (∀ o, i ≠ .render o) →
      t.lastW = s.lastW ∧ t.lastH = s.lastH) ∧
    ((∀ o, i ≠ .render o) → t.outW = s.outW ∧ t.outH = s.outH) ∧
    t.inbox = s.inbox

/-- Only RENDER, REPLPX, SEEDPASS and BLENDPASS write host memory (20_memory.md R48), and no instruction adds a byte to
it or takes one away. -/
def Obligations.HostMemoryHasOnlyItsWriters : Prop :=
  ∀ (i : Instr) (s t : State), exec i s = .next t →
    ((∀ o, i ≠ .render o) → (∀ d st x y v, i ≠ .replpx d st x y v) → (∀ o, i ≠ .seedpass o) →
      (∀ o, i ≠ .blendpass o) → t.mem = s.mem) ∧
    ∀ a, (Memory.read t.mem a).isSome = (Memory.read s.mem a).isSome

/-- What the latches, `OUT`, the cursor and the last result hold before a RENDER cannot be seen in anything it writes:
two states that differ only in them give the same DST, history, base, dimensions and result (10_state.md R10, R11,
R12). -/
def Obligations.TransientsAreUnobservable : Prop :=
  ∀ (o : RenderOperands) (s t : State) (p : Samples) (out : Pixel) (x y : Dim) (r : Result),
    exec (.render o) s = .next t →
    ∃ u, exec (.render o) { s with p := p, out := out, x := x, y := y, ret := r } = .next u ∧
      u.mem = t.mem ∧ u.hist = t.hist ∧ u.base = t.base ∧ u.seeded = t.seeded ∧ u.lastW = t.lastW ∧
      u.lastH = t.lastH ∧ u.outW = t.outW ∧ u.outH = t.outH ∧ u.ret = t.ret
end

