-- ==== Sys2Proof/Laws/Memory.lean ====
section
/-! SUPPORT. The host's memory: a read after a write, the addresses a write leaves alone, and the canonical form. -/

namespace Sys2Proof.Machine

/-! ### Bytes -/

theorem Memory.read_nil (a : Nat) : Memory.read [] a = none := rfl

theorem Memory.read_cons (k : Nat) (v : Byte) (m : Memory) (a : Nat) :
    Memory.read ((k, v) :: m) a = if a = k then some v else Memory.read m a := rfl

theorem Memory.read_write_same (m : Memory) (a : Nat) (v : Byte) : Memory.read (Memory.write m a v) a = some v := by
  induction m with
  | nil => simp [Memory.write, Memory.read_cons]
  | cons kw m ih =>
    obtain ⟨k, w⟩ := kw
    simp only [Memory.write]
    split_ifs with h1 h2
    · simp [Memory.read_cons]
    · simp [Memory.read_cons]
    · simp [Memory.read_cons, h2, ih]

theorem Memory.read_write_other (m : Memory) {a b : Nat} (v : Byte) (h : b ≠ a) :
    Memory.read (Memory.write m a v) b = Memory.read m b := by
  induction m with
  | nil => simp [Memory.write, Memory.read_cons, h, Memory.read_nil]
  | cons kw m ih =>
    obtain ⟨k, w⟩ := kw
    simp only [Memory.write]
    split_ifs with h1 h2
    · simp [Memory.read_cons, h]
    · subst h2; simp [Memory.read_cons, h]
    · simp [Memory.read_cons, ih]

/-- A write, read back at any address. -/
theorem Memory.read_write (m : Memory) (a b : Nat) (v : Byte) :
    Memory.read (Memory.write m a v) b = if b = a then some v else Memory.read m b := by
  split_ifs with h
  · subst h; exact Memory.read_write_same m b v
  · exact Memory.read_write_other m v h

/-- A key of a written memory is the address written or a key it had. -/
theorem Memory.mem_write {m : Memory} {a : Nat} {v : Byte} {c : Host.Cell} (h : c ∈ Memory.write m a v) :
    c.1 = a ∨ c ∈ m := by
  induction m with
  | nil => left; simp [Memory.write] at h; simp [h]
  | cons kw m ih =>
    obtain ⟨k, w⟩ := kw
    simp only [Memory.write] at h
    split_ifs at h with h1 h2
    · rcases List.mem_cons.1 h with h | h
      · left; simp [h]
      · exact .inr h
    · rcases List.mem_cons.1 h with h | h
      · left; simp [h]
      · exact .inr (List.mem_cons_of_mem _ h)
    · rcases List.mem_cons.1 h with h | h
      · exact .inr (h ▸ List.mem_cons_self)
      · exact (ih h).imp_right (List.mem_cons_of_mem _)

theorem Memory.write_wf {m : Memory} (h : Memory.wf m) (a : Nat) (v : Byte) : Memory.wf (Memory.write m a v) := by
  induction m with
  | nil => simp [Memory.write, Memory.wf]
  | cons kw m ih =>
    obtain ⟨k, w⟩ := kw
    have hk := List.pairwise_cons.1 h
    simp only [Memory.write]
    split_ifs with h1 h2
    · refine List.pairwise_cons.2 ⟨?_, h⟩
      intro c hc
      rcases List.mem_cons.1 hc with rfl | hc
      · exact h1
      · exact lt_trans h1 (hk.1 c hc)
    · subst h2; exact List.pairwise_cons.2 hk
    · refine List.pairwise_cons.2 ⟨?_, ih hk.2⟩
      intro c hc
      rcases Memory.mem_write hc with hc | hc
      · rw [hc]; show k < a; omega
      · exact hk.1 c hc

/-! ### Pixels -/

/-- A pixel is its two bytes (20_memory.md R45). -/
theorem pixel_of_bytes (p : Pixel) : p.extractLsb' 8 8 ++ p.extractLsb' 0 8 = p := by
  ext i hi
  simp only [BitVec.getElem_append, BitVec.getElem_extractLsb']
  split_ifs with h
  · simp [BitVec.getLsbD_eq_getElem hi]
  · simp [show 8 + (i - 8) = i by omega, BitVec.getLsbD_eq_getElem hi]

theorem Memory.readPixel_writePixel_same (m : Memory) (c : Nat) (p : Pixel) :
    Memory.readPixel (Memory.writePixel m c p) c = some p := by
  simp [Memory.readPixel, Memory.writePixel, Memory.read_write, pixel_of_bytes]

theorem Memory.readPixel_writePixel_other (m : Memory) {c d : Nat} (p : Pixel) (h : d ≠ c) :
    Memory.readPixel (Memory.writePixel m c p) d = Memory.readPixel m d := by
  have h1 : 2 * d ≠ 2 * c := by omega
  have h2 : 2 * d ≠ 2 * c + 1 := by omega
  have h3 : 2 * d + 1 ≠ 2 * c := by omega
  simp [Memory.readPixel, Memory.writePixel, Memory.read_write, h1, h2, h3]

/-- A pixel write, read back at any cell. -/
theorem Memory.readPixel_writePixel (m : Memory) (c d : Nat) (p : Pixel) :
    Memory.readPixel (Memory.writePixel m c p) d = if d = c then some p else Memory.readPixel m d := by
  split_ifs with h
  · subst h; exact Memory.readPixel_writePixel_same m d p
  · exact Memory.readPixel_writePixel_other m p h

/-- A pixel write leaves every byte outside its cell alone. -/
theorem Memory.read_writePixel_other (m : Memory) {c a : Nat} (p : Pixel) (h0 : a ≠ 2 * c) (h1 : a ≠ 2 * c + 1) :
    Memory.read (Memory.writePixel m c p) a = Memory.read m a := by
  simp [Memory.writePixel, Memory.read_write, h0, h1]

theorem Memory.writePixel_wf {m : Memory} (h : Memory.wf m) (c : Nat) (p : Pixel) :
    Memory.wf (Memory.writePixel m c p) :=
  Memory.write_wf (Memory.write_wf h _ _) _ _

theorem Memory.writeRun_wf {m : Memory} (h : Memory.wf m) (c : Nat) (ps : List Pixel) :
    Memory.wf (Memory.writeRun m c ps) := by
  induction ps generalizing m c with
  | nil => exact h
  | cons p ps ih => exact ih (Memory.writePixel_wf h c p) _

/-! ### Cells that a buffer holds -/

theorem Memory.holds_iff (m : Memory) (c : Nat) : Memory.holds m c = true ↔ ∃ p, Memory.readPixel m c = some p :=
  Option.isSome_iff_exists

theorem Memory.holds_bytes {m : Memory} {c : Nat} (h : Memory.holds m c = true) :
    (Memory.read m (2 * c)).isSome ∧ (Memory.read m (2 * c + 1)).isSome := by
  unfold Memory.holds Memory.readPixel at h
  split at h <;> simp_all

theorem Memory.holdsAll_iff (m : Memory) (base n : Nat) :
    Memory.holdsAll m base n = true ↔ ∀ k < n, Memory.holds m (base + k) = true := by
  simp [Memory.holdsAll]

/-- Writing a pixel takes no cell away. -/
theorem Memory.holds_writePixel {m : Memory} {d : Nat} (h : Memory.holds m d = true) (c : Nat) (p : Pixel) :
    Memory.holds (Memory.writePixel m c p) d = true := by
  unfold Memory.holds at *
  rw [Memory.readPixel_writePixel]
  split_ifs <;> simp_all

/-- Writing a pixel into a cell that a buffer holds neither adds an address nor takes one away. -/
theorem Memory.read_isSome_writePixel {m : Memory} {c : Nat} (h : Memory.holds m c = true) (p : Pixel) (a : Nat) :
    (Memory.read (Memory.writePixel m c p) a).isSome = (Memory.read m a).isSome := by
  obtain ⟨h0, h1⟩ := Memory.holds_bytes h
  simp only [Memory.writePixel, Memory.read_write]
  split_ifs with ha hb
  · subst ha; simp [h1]
  · subst hb; simp [h0]
  · rfl

end Sys2Proof.Machine
end

