-- ==== Sys2Proof/Laws/State.lean ====
section
/-! SUPPORT. One lemma per field per named update of the state (Machine/Ops.lean), so that no proof unfolds a record
update. -/

namespace Sys2Proof.Machine

variable (s : State)

/-! ### `returning` -/

@[simp] theorem State.returning_constructed (r : Result) : (s.returning r).constructed = s.constructed := rfl
@[simp] theorem State.returning_gamma (r : Result) : (s.returning r).gamma = s.gamma := rfl
@[simp] theorem State.returning_ratio (r : Result) : (s.returning r).ratio = s.ratio := rfl
@[simp] theorem State.returning_lut (r : Result) : (s.returning r).lut = s.lut := rfl
@[simp] theorem State.returning_mode (r : Result) : (s.returning r).mode = s.mode := rfl
@[simp] theorem State.returning_fullbright (r : Result) : (s.returning r).fullbright = s.fullbright := rfl
@[simp] theorem State.returning_motionCheck (r : Result) : (s.returning r).motionCheck = s.motionCheck := rfl
@[simp] theorem State.returning_seeded (r : Result) : (s.returning r).seeded = s.seeded := rfl
@[simp] theorem State.returning_lastW (r : Result) : (s.returning r).lastW = s.lastW := rfl
@[simp] theorem State.returning_lastH (r : Result) : (s.returning r).lastH = s.lastH := rfl
@[simp] theorem State.returning_base (r : Result) : (s.returning r).base = s.base := rfl
@[simp] theorem State.returning_hist (r : Result) : (s.returning r).hist = s.hist := rfl
@[simp] theorem State.returning_outW (r : Result) : (s.returning r).outW = s.outW := rfl
@[simp] theorem State.returning_outH (r : Result) : (s.returning r).outH = s.outH := rfl
@[simp] theorem State.returning_p (r : Result) : (s.returning r).p = s.p := rfl
@[simp] theorem State.returning_out (r : Result) : (s.returning r).out = s.out := rfl
@[simp] theorem State.returning_x (r : Result) : (s.returning r).x = s.x := rfl
@[simp] theorem State.returning_y (r : Result) : (s.returning r).y = s.y := rfl
@[simp] theorem State.returning_mem (r : Result) : (s.returning r).mem = s.mem := rfl
@[simp] theorem State.returning_inbox (r : Result) : (s.returning r).inbox = s.inbox := rfl
@[simp] theorem State.returning_ret (r : Result) : (s.returning r).ret = r := rfl
@[simp] theorem State.returning_drawn (r : Result) : (s.returning r).drawn = s.drawn := rfl

/-! ### `build` -/

@[simp] theorem State.build_constructed (gamma ratio : Rat) : (s.build gamma ratio).constructed = s.constructed := rfl
@[simp] theorem State.build_gamma (gamma ratio : Rat) : (s.build gamma ratio).gamma = clampGamma gamma := rfl
@[simp] theorem State.build_ratio (gamma ratio : Rat) : (s.build gamma ratio).ratio = clampRatio ratio := rfl
@[simp] theorem State.build_lut (gamma ratio : Rat) :
    (s.build gamma ratio).lut = buildLut (clampGamma gamma) (clampRatio ratio) := rfl
@[simp] theorem State.build_mode (gamma ratio : Rat) : (s.build gamma ratio).mode = s.mode := rfl
@[simp] theorem State.build_fullbright (gamma ratio : Rat) : (s.build gamma ratio).fullbright = s.fullbright := rfl
@[simp] theorem State.build_motionCheck (gamma ratio : Rat) : (s.build gamma ratio).motionCheck = s.motionCheck := rfl
@[simp] theorem State.build_seeded (gamma ratio : Rat) : (s.build gamma ratio).seeded = s.seeded := rfl
@[simp] theorem State.build_lastW (gamma ratio : Rat) : (s.build gamma ratio).lastW = s.lastW := rfl
@[simp] theorem State.build_lastH (gamma ratio : Rat) : (s.build gamma ratio).lastH = s.lastH := rfl
@[simp] theorem State.build_base (gamma ratio : Rat) : (s.build gamma ratio).base = s.base := rfl
@[simp] theorem State.build_hist (gamma ratio : Rat) : (s.build gamma ratio).hist = s.hist := rfl
@[simp] theorem State.build_outW (gamma ratio : Rat) : (s.build gamma ratio).outW = s.outW := rfl
@[simp] theorem State.build_outH (gamma ratio : Rat) : (s.build gamma ratio).outH = s.outH := rfl
@[simp] theorem State.build_p (gamma ratio : Rat) : (s.build gamma ratio).p = s.p := rfl
@[simp] theorem State.build_out (gamma ratio : Rat) : (s.build gamma ratio).out = s.out := rfl
@[simp] theorem State.build_x (gamma ratio : Rat) : (s.build gamma ratio).x = s.x := rfl
@[simp] theorem State.build_y (gamma ratio : Rat) : (s.build gamma ratio).y = s.y := rfl
@[simp] theorem State.build_mem (gamma ratio : Rat) : (s.build gamma ratio).mem = s.mem := rfl
@[simp] theorem State.build_inbox (gamma ratio : Rat) : (s.build gamma ratio).inbox = s.inbox := rfl
@[simp] theorem State.build_ret (gamma ratio : Rat) : (s.build gamma ratio).ret = s.ret := rfl
@[simp] theorem State.build_drawn (gamma ratio : Rat) : (s.build gamma ratio).drawn = s.drawn := rfl

/-! ### `setControls` -/

@[simp] theorem State.setControls_constructed (m : BitVec 2) (fb mc : Bool) :
    (s.setControls m fb mc).constructed = s.constructed := rfl
@[simp] theorem State.setControls_gamma (m : BitVec 2) (fb mc : Bool) : (s.setControls m fb mc).gamma = s.gamma := rfl
@[simp] theorem State.setControls_ratio (m : BitVec 2) (fb mc : Bool) : (s.setControls m fb mc).ratio = s.ratio := rfl
@[simp] theorem State.setControls_lut (m : BitVec 2) (fb mc : Bool) : (s.setControls m fb mc).lut = s.lut := rfl
@[simp] theorem State.setControls_mode (m : BitVec 2) (fb mc : Bool) : (s.setControls m fb mc).mode = m := rfl
@[simp] theorem State.setControls_fullbright (m : BitVec 2) (fb mc : Bool) :
    (s.setControls m fb mc).fullbright = fb := rfl
@[simp] theorem State.setControls_motionCheck (m : BitVec 2) (fb mc : Bool) :
    (s.setControls m fb mc).motionCheck = mc := rfl
@[simp] theorem State.setControls_seeded (m : BitVec 2) (fb mc : Bool) :
    (s.setControls m fb mc).seeded = s.seeded := rfl
@[simp] theorem State.setControls_lastW (m : BitVec 2) (fb mc : Bool) : (s.setControls m fb mc).lastW = s.lastW := rfl
@[simp] theorem State.setControls_lastH (m : BitVec 2) (fb mc : Bool) : (s.setControls m fb mc).lastH = s.lastH := rfl
@[simp] theorem State.setControls_base (m : BitVec 2) (fb mc : Bool) : (s.setControls m fb mc).base = s.base := rfl
@[simp] theorem State.setControls_hist (m : BitVec 2) (fb mc : Bool) : (s.setControls m fb mc).hist = s.hist := rfl
@[simp] theorem State.setControls_outW (m : BitVec 2) (fb mc : Bool) : (s.setControls m fb mc).outW = s.outW := rfl
@[simp] theorem State.setControls_outH (m : BitVec 2) (fb mc : Bool) : (s.setControls m fb mc).outH = s.outH := rfl
@[simp] theorem State.setControls_p (m : BitVec 2) (fb mc : Bool) : (s.setControls m fb mc).p = s.p := rfl
@[simp] theorem State.setControls_out (m : BitVec 2) (fb mc : Bool) : (s.setControls m fb mc).out = s.out := rfl
@[simp] theorem State.setControls_x (m : BitVec 2) (fb mc : Bool) : (s.setControls m fb mc).x = s.x := rfl
@[simp] theorem State.setControls_y (m : BitVec 2) (fb mc : Bool) : (s.setControls m fb mc).y = s.y := rfl
@[simp] theorem State.setControls_mem (m : BitVec 2) (fb mc : Bool) : (s.setControls m fb mc).mem = s.mem := rfl
@[simp] theorem State.setControls_inbox (m : BitVec 2) (fb mc : Bool) : (s.setControls m fb mc).inbox = s.inbox := rfl
@[simp] theorem State.setControls_ret (m : BitVec 2) (fb mc : Bool) : (s.setControls m fb mc).ret = s.ret := rfl
@[simp] theorem State.setControls_drawn (m : BitVec 2) (fb mc : Bool) : (s.setControls m fb mc).drawn = s.drawn := rfl

/-! ### `markConstructed` -/

@[simp] theorem State.markConstructed_constructed : (s.markConstructed).constructed = true := rfl
@[simp] theorem State.markConstructed_gamma : (s.markConstructed).gamma = s.gamma := rfl
@[simp] theorem State.markConstructed_ratio : (s.markConstructed).ratio = s.ratio := rfl
@[simp] theorem State.markConstructed_lut : (s.markConstructed).lut = s.lut := rfl
@[simp] theorem State.markConstructed_mode : (s.markConstructed).mode = s.mode := rfl
@[simp] theorem State.markConstructed_fullbright : (s.markConstructed).fullbright = s.fullbright := rfl
@[simp] theorem State.markConstructed_motionCheck : (s.markConstructed).motionCheck = s.motionCheck := rfl
@[simp] theorem State.markConstructed_seeded : (s.markConstructed).seeded = s.seeded := rfl
@[simp] theorem State.markConstructed_lastW : (s.markConstructed).lastW = s.lastW := rfl
@[simp] theorem State.markConstructed_lastH : (s.markConstructed).lastH = s.lastH := rfl
@[simp] theorem State.markConstructed_base : (s.markConstructed).base = s.base := rfl
@[simp] theorem State.markConstructed_hist : (s.markConstructed).hist = s.hist := rfl
@[simp] theorem State.markConstructed_outW : (s.markConstructed).outW = s.outW := rfl
@[simp] theorem State.markConstructed_outH : (s.markConstructed).outH = s.outH := rfl
@[simp] theorem State.markConstructed_p : (s.markConstructed).p = s.p := rfl
@[simp] theorem State.markConstructed_out : (s.markConstructed).out = s.out := rfl
@[simp] theorem State.markConstructed_x : (s.markConstructed).x = s.x := rfl
@[simp] theorem State.markConstructed_y : (s.markConstructed).y = s.y := rfl
@[simp] theorem State.markConstructed_mem : (s.markConstructed).mem = s.mem := rfl
@[simp] theorem State.markConstructed_inbox : (s.markConstructed).inbox = s.inbox := rfl
@[simp] theorem State.markConstructed_ret : (s.markConstructed).ret = s.ret := rfl
@[simp] theorem State.markConstructed_drawn : (s.markConstructed).drawn = s.drawn := rfl

/-! ### `toggleMode` -/

@[simp] theorem State.toggleMode_constructed : (s.toggleMode).constructed = s.constructed := rfl
@[simp] theorem State.toggleMode_gamma : (s.toggleMode).gamma = s.gamma := rfl
@[simp] theorem State.toggleMode_ratio : (s.toggleMode).ratio = s.ratio := rfl
@[simp] theorem State.toggleMode_lut : (s.toggleMode).lut = s.lut := rfl
@[simp] theorem State.toggleMode_mode : (s.toggleMode).mode = BitVec.ofNat 2 ((s.mode.toNat + 1) % 3) := rfl
@[simp] theorem State.toggleMode_fullbright : (s.toggleMode).fullbright = s.fullbright := rfl
@[simp] theorem State.toggleMode_motionCheck : (s.toggleMode).motionCheck = s.motionCheck := rfl
@[simp] theorem State.toggleMode_seeded : (s.toggleMode).seeded = s.seeded := rfl
@[simp] theorem State.toggleMode_lastW : (s.toggleMode).lastW = s.lastW := rfl
@[simp] theorem State.toggleMode_lastH : (s.toggleMode).lastH = s.lastH := rfl
@[simp] theorem State.toggleMode_base : (s.toggleMode).base = s.base := rfl
@[simp] theorem State.toggleMode_hist : (s.toggleMode).hist = s.hist := rfl
@[simp] theorem State.toggleMode_outW : (s.toggleMode).outW = s.outW := rfl
@[simp] theorem State.toggleMode_outH : (s.toggleMode).outH = s.outH := rfl
@[simp] theorem State.toggleMode_p : (s.toggleMode).p = s.p := rfl
@[simp] theorem State.toggleMode_out : (s.toggleMode).out = s.out := rfl
@[simp] theorem State.toggleMode_x : (s.toggleMode).x = s.x := rfl
@[simp] theorem State.toggleMode_y : (s.toggleMode).y = s.y := rfl
@[simp] theorem State.toggleMode_mem : (s.toggleMode).mem = s.mem := rfl
@[simp] theorem State.toggleMode_inbox : (s.toggleMode).inbox = s.inbox := rfl
@[simp] theorem State.toggleMode_ret : (s.toggleMode).ret = s.ret := rfl
@[simp] theorem State.toggleMode_drawn : (s.toggleMode).drawn = s.drawn := rfl

/-! ### `returnSize` -/

@[simp] theorem State.returnSize_constructed (w h : OutDim) : (s.returnSize w h).constructed = s.constructed := rfl
@[simp] theorem State.returnSize_gamma (w h : OutDim) : (s.returnSize w h).gamma = s.gamma := rfl
@[simp] theorem State.returnSize_ratio (w h : OutDim) : (s.returnSize w h).ratio = s.ratio := rfl
@[simp] theorem State.returnSize_lut (w h : OutDim) : (s.returnSize w h).lut = s.lut := rfl
@[simp] theorem State.returnSize_mode (w h : OutDim) : (s.returnSize w h).mode = s.mode := rfl
@[simp] theorem State.returnSize_fullbright (w h : OutDim) : (s.returnSize w h).fullbright = s.fullbright := rfl
@[simp] theorem State.returnSize_motionCheck (w h : OutDim) : (s.returnSize w h).motionCheck = s.motionCheck := rfl
@[simp] theorem State.returnSize_seeded (w h : OutDim) : (s.returnSize w h).seeded = s.seeded := rfl
@[simp] theorem State.returnSize_lastW (w h : OutDim) : (s.returnSize w h).lastW = s.lastW := rfl
@[simp] theorem State.returnSize_lastH (w h : OutDim) : (s.returnSize w h).lastH = s.lastH := rfl
@[simp] theorem State.returnSize_base (w h : OutDim) : (s.returnSize w h).base = s.base := rfl
@[simp] theorem State.returnSize_hist (w h : OutDim) : (s.returnSize w h).hist = s.hist := rfl
@[simp] theorem State.returnSize_outW (w h : OutDim) : (s.returnSize w h).outW = w := rfl
@[simp] theorem State.returnSize_outH (w h : OutDim) : (s.returnSize w h).outH = h := rfl
@[simp] theorem State.returnSize_p (w h : OutDim) : (s.returnSize w h).p = s.p := rfl
@[simp] theorem State.returnSize_out (w h : OutDim) : (s.returnSize w h).out = s.out := rfl
@[simp] theorem State.returnSize_x (w h : OutDim) : (s.returnSize w h).x = s.x := rfl
@[simp] theorem State.returnSize_y (w h : OutDim) : (s.returnSize w h).y = s.y := rfl
@[simp] theorem State.returnSize_mem (w h : OutDim) : (s.returnSize w h).mem = s.mem := rfl
@[simp] theorem State.returnSize_inbox (w h : OutDim) : (s.returnSize w h).inbox = s.inbox := rfl
@[simp] theorem State.returnSize_ret (w h : OutDim) : (s.returnSize w h).ret = .size w h := rfl
@[simp] theorem State.returnSize_drawn (w h : OutDim) : (s.returnSize w h).drawn = s.drawn := rfl

/-! ### `setCursor` -/

@[simp] theorem State.setCursor_constructed (cx cy : Nat) : (s.setCursor cx cy).constructed = s.constructed := rfl
@[simp] theorem State.setCursor_gamma (cx cy : Nat) : (s.setCursor cx cy).gamma = s.gamma := rfl
@[simp] theorem State.setCursor_ratio (cx cy : Nat) : (s.setCursor cx cy).ratio = s.ratio := rfl
@[simp] theorem State.setCursor_lut (cx cy : Nat) : (s.setCursor cx cy).lut = s.lut := rfl
@[simp] theorem State.setCursor_mode (cx cy : Nat) : (s.setCursor cx cy).mode = s.mode := rfl
@[simp] theorem State.setCursor_fullbright (cx cy : Nat) : (s.setCursor cx cy).fullbright = s.fullbright := rfl
@[simp] theorem State.setCursor_motionCheck (cx cy : Nat) : (s.setCursor cx cy).motionCheck = s.motionCheck := rfl
@[simp] theorem State.setCursor_seeded (cx cy : Nat) : (s.setCursor cx cy).seeded = s.seeded := rfl
@[simp] theorem State.setCursor_lastW (cx cy : Nat) : (s.setCursor cx cy).lastW = s.lastW := rfl
@[simp] theorem State.setCursor_lastH (cx cy : Nat) : (s.setCursor cx cy).lastH = s.lastH := rfl
@[simp] theorem State.setCursor_base (cx cy : Nat) : (s.setCursor cx cy).base = s.base := rfl
@[simp] theorem State.setCursor_hist (cx cy : Nat) : (s.setCursor cx cy).hist = s.hist := rfl
@[simp] theorem State.setCursor_outW (cx cy : Nat) : (s.setCursor cx cy).outW = s.outW := rfl
@[simp] theorem State.setCursor_outH (cx cy : Nat) : (s.setCursor cx cy).outH = s.outH := rfl
@[simp] theorem State.setCursor_p (cx cy : Nat) : (s.setCursor cx cy).p = s.p := rfl
@[simp] theorem State.setCursor_out (cx cy : Nat) : (s.setCursor cx cy).out = s.out := rfl
@[simp] theorem State.setCursor_x (cx cy : Nat) : (s.setCursor cx cy).x = BitVec.ofNat 16 cx := rfl
@[simp] theorem State.setCursor_y (cx cy : Nat) : (s.setCursor cx cy).y = BitVec.ofNat 16 cy := rfl
@[simp] theorem State.setCursor_mem (cx cy : Nat) : (s.setCursor cx cy).mem = s.mem := rfl
@[simp] theorem State.setCursor_inbox (cx cy : Nat) : (s.setCursor cx cy).inbox = s.inbox := rfl
@[simp] theorem State.setCursor_ret (cx cy : Nat) : (s.setCursor cx cy).ret = s.ret := rfl
@[simp] theorem State.setCursor_drawn (cx cy : Nat) : (s.setCursor cx cy).drawn = s.drawn := rfl

/-! ### `setLatches` -/

@[simp] theorem State.setLatches_constructed (ps : Samples) : (s.setLatches ps).constructed = s.constructed := rfl
@[simp] theorem State.setLatches_gamma (ps : Samples) : (s.setLatches ps).gamma = s.gamma := rfl
@[simp] theorem State.setLatches_ratio (ps : Samples) : (s.setLatches ps).ratio = s.ratio := rfl
@[simp] theorem State.setLatches_lut (ps : Samples) : (s.setLatches ps).lut = s.lut := rfl
@[simp] theorem State.setLatches_mode (ps : Samples) : (s.setLatches ps).mode = s.mode := rfl
@[simp] theorem State.setLatches_fullbright (ps : Samples) : (s.setLatches ps).fullbright = s.fullbright := rfl
@[simp] theorem State.setLatches_motionCheck (ps : Samples) : (s.setLatches ps).motionCheck = s.motionCheck := rfl
@[simp] theorem State.setLatches_seeded (ps : Samples) : (s.setLatches ps).seeded = s.seeded := rfl
@[simp] theorem State.setLatches_lastW (ps : Samples) : (s.setLatches ps).lastW = s.lastW := rfl
@[simp] theorem State.setLatches_lastH (ps : Samples) : (s.setLatches ps).lastH = s.lastH := rfl
@[simp] theorem State.setLatches_base (ps : Samples) : (s.setLatches ps).base = s.base := rfl
@[simp] theorem State.setLatches_hist (ps : Samples) : (s.setLatches ps).hist = s.hist := rfl
@[simp] theorem State.setLatches_outW (ps : Samples) : (s.setLatches ps).outW = s.outW := rfl
@[simp] theorem State.setLatches_outH (ps : Samples) : (s.setLatches ps).outH = s.outH := rfl
@[simp] theorem State.setLatches_p (ps : Samples) : (s.setLatches ps).p = ps := rfl
@[simp] theorem State.setLatches_out (ps : Samples) : (s.setLatches ps).out = s.out := rfl
@[simp] theorem State.setLatches_x (ps : Samples) : (s.setLatches ps).x = s.x := rfl
@[simp] theorem State.setLatches_y (ps : Samples) : (s.setLatches ps).y = s.y := rfl
@[simp] theorem State.setLatches_mem (ps : Samples) : (s.setLatches ps).mem = s.mem := rfl
@[simp] theorem State.setLatches_inbox (ps : Samples) : (s.setLatches ps).inbox = s.inbox := rfl
@[simp] theorem State.setLatches_ret (ps : Samples) : (s.setLatches ps).ret = s.ret := rfl
@[simp] theorem State.setLatches_drawn (ps : Samples) : (s.setLatches ps).drawn = s.drawn := rfl

/-! ### `setOut` -/

@[simp] theorem State.setOut_constructed (v : Pixel) : (s.setOut v).constructed = s.constructed := rfl
@[simp] theorem State.setOut_gamma (v : Pixel) : (s.setOut v).gamma = s.gamma := rfl
@[simp] theorem State.setOut_ratio (v : Pixel) : (s.setOut v).ratio = s.ratio := rfl
@[simp] theorem State.setOut_lut (v : Pixel) : (s.setOut v).lut = s.lut := rfl
@[simp] theorem State.setOut_mode (v : Pixel) : (s.setOut v).mode = s.mode := rfl
@[simp] theorem State.setOut_fullbright (v : Pixel) : (s.setOut v).fullbright = s.fullbright := rfl
@[simp] theorem State.setOut_motionCheck (v : Pixel) : (s.setOut v).motionCheck = s.motionCheck := rfl
@[simp] theorem State.setOut_seeded (v : Pixel) : (s.setOut v).seeded = s.seeded := rfl
@[simp] theorem State.setOut_lastW (v : Pixel) : (s.setOut v).lastW = s.lastW := rfl
@[simp] theorem State.setOut_lastH (v : Pixel) : (s.setOut v).lastH = s.lastH := rfl
@[simp] theorem State.setOut_base (v : Pixel) : (s.setOut v).base = s.base := rfl
@[simp] theorem State.setOut_hist (v : Pixel) : (s.setOut v).hist = s.hist := rfl
@[simp] theorem State.setOut_outW (v : Pixel) : (s.setOut v).outW = s.outW := rfl
@[simp] theorem State.setOut_outH (v : Pixel) : (s.setOut v).outH = s.outH := rfl
@[simp] theorem State.setOut_p (v : Pixel) : (s.setOut v).p = s.p := rfl
@[simp] theorem State.setOut_out (v : Pixel) : (s.setOut v).out = v := rfl
@[simp] theorem State.setOut_x (v : Pixel) : (s.setOut v).x = s.x := rfl
@[simp] theorem State.setOut_y (v : Pixel) : (s.setOut v).y = s.y := rfl
@[simp] theorem State.setOut_mem (v : Pixel) : (s.setOut v).mem = s.mem := rfl
@[simp] theorem State.setOut_inbox (v : Pixel) : (s.setOut v).inbox = s.inbox := rfl
@[simp] theorem State.setOut_ret (v : Pixel) : (s.setOut v).ret = s.ret := rfl
@[simp] theorem State.setOut_drawn (v : Pixel) : (s.setOut v).drawn = s.drawn := rfl

/-! ### `dropCursor` -/

@[simp] theorem State.dropCursor_constructed : (s.dropCursor).constructed = s.constructed := rfl
@[simp] theorem State.dropCursor_gamma : (s.dropCursor).gamma = s.gamma := rfl
@[simp] theorem State.dropCursor_ratio : (s.dropCursor).ratio = s.ratio := rfl
@[simp] theorem State.dropCursor_lut : (s.dropCursor).lut = s.lut := rfl
@[simp] theorem State.dropCursor_mode : (s.dropCursor).mode = s.mode := rfl
@[simp] theorem State.dropCursor_fullbright : (s.dropCursor).fullbright = s.fullbright := rfl
@[simp] theorem State.dropCursor_motionCheck : (s.dropCursor).motionCheck = s.motionCheck := rfl
@[simp] theorem State.dropCursor_seeded : (s.dropCursor).seeded = s.seeded := rfl
@[simp] theorem State.dropCursor_lastW : (s.dropCursor).lastW = s.lastW := rfl
@[simp] theorem State.dropCursor_lastH : (s.dropCursor).lastH = s.lastH := rfl
@[simp] theorem State.dropCursor_base : (s.dropCursor).base = s.base := rfl
@[simp] theorem State.dropCursor_hist : (s.dropCursor).hist = s.hist := rfl
@[simp] theorem State.dropCursor_outW : (s.dropCursor).outW = s.outW := rfl
@[simp] theorem State.dropCursor_outH : (s.dropCursor).outH = s.outH := rfl
@[simp] theorem State.dropCursor_p : (s.dropCursor).p = s.p := rfl
@[simp] theorem State.dropCursor_out : (s.dropCursor).out = s.out := rfl
@[simp] theorem State.dropCursor_x : (s.dropCursor).x = Config.freeCoord s.drawn 0 := rfl
@[simp] theorem State.dropCursor_y : (s.dropCursor).y = Config.freeCoord s.drawn 1 := rfl
@[simp] theorem State.dropCursor_mem : (s.dropCursor).mem = s.mem := rfl
@[simp] theorem State.dropCursor_inbox : (s.dropCursor).inbox = s.inbox := rfl
@[simp] theorem State.dropCursor_ret : (s.dropCursor).ret = s.ret := rfl
@[simp] theorem State.dropCursor_drawn : (s.dropCursor).drawn = s.drawn + 1 := rfl

/-! ### `dropLatches` -/

@[simp] theorem State.dropLatches_constructed : (s.dropLatches).constructed = s.constructed := rfl
@[simp] theorem State.dropLatches_gamma : (s.dropLatches).gamma = s.gamma := rfl
@[simp] theorem State.dropLatches_ratio : (s.dropLatches).ratio = s.ratio := rfl
@[simp] theorem State.dropLatches_lut : (s.dropLatches).lut = s.lut := rfl
@[simp] theorem State.dropLatches_mode : (s.dropLatches).mode = s.mode := rfl
@[simp] theorem State.dropLatches_fullbright : (s.dropLatches).fullbright = s.fullbright := rfl
@[simp] theorem State.dropLatches_motionCheck : (s.dropLatches).motionCheck = s.motionCheck := rfl
@[simp] theorem State.dropLatches_seeded : (s.dropLatches).seeded = s.seeded := rfl
@[simp] theorem State.dropLatches_lastW : (s.dropLatches).lastW = s.lastW := rfl
@[simp] theorem State.dropLatches_lastH : (s.dropLatches).lastH = s.lastH := rfl
@[simp] theorem State.dropLatches_base : (s.dropLatches).base = s.base := rfl
@[simp] theorem State.dropLatches_hist : (s.dropLatches).hist = s.hist := rfl
@[simp] theorem State.dropLatches_outW : (s.dropLatches).outW = s.outW := rfl
@[simp] theorem State.dropLatches_outH : (s.dropLatches).outH = s.outH := rfl
@[simp] theorem State.dropLatches_p : (s.dropLatches).p =
      ⟨Config.freePixel s.drawn 0, Config.freePixel s.drawn 1, Config.freePixel s.drawn 2,
        Config.freePixel s.drawn 3, Config.freePixel s.drawn 4, Config.freePixel s.drawn 5⟩ := rfl
@[simp] theorem State.dropLatches_out : (s.dropLatches).out = Config.freePixel s.drawn 6 := rfl
@[simp] theorem State.dropLatches_x : (s.dropLatches).x = s.x := rfl
@[simp] theorem State.dropLatches_y : (s.dropLatches).y = s.y := rfl
@[simp] theorem State.dropLatches_mem : (s.dropLatches).mem = s.mem := rfl
@[simp] theorem State.dropLatches_inbox : (s.dropLatches).inbox = s.inbox := rfl
@[simp] theorem State.dropLatches_ret : (s.dropLatches).ret = s.ret := rfl
@[simp] theorem State.dropLatches_drawn : (s.dropLatches).drawn = s.drawn + 1 := rfl

/-! ### `resizeStore` -/

@[simp] theorem State.resizeStore_constructed (w h : Dim) : (s.resizeStore w h).constructed = s.constructed := rfl
@[simp] theorem State.resizeStore_gamma (w h : Dim) : (s.resizeStore w h).gamma = s.gamma := rfl
@[simp] theorem State.resizeStore_ratio (w h : Dim) : (s.resizeStore w h).ratio = s.ratio := rfl
@[simp] theorem State.resizeStore_lut (w h : Dim) : (s.resizeStore w h).lut = s.lut := rfl
@[simp] theorem State.resizeStore_mode (w h : Dim) : (s.resizeStore w h).mode = s.mode := rfl
@[simp] theorem State.resizeStore_fullbright (w h : Dim) : (s.resizeStore w h).fullbright = s.fullbright := rfl
@[simp] theorem State.resizeStore_motionCheck (w h : Dim) : (s.resizeStore w h).motionCheck = s.motionCheck := rfl
@[simp] theorem State.resizeStore_seeded (w h : Dim) : (s.resizeStore w h).seeded = false := rfl
@[simp] theorem State.resizeStore_lastW (w h : Dim) : (s.resizeStore w h).lastW = w := rfl
@[simp] theorem State.resizeStore_lastH (w h : Dim) : (s.resizeStore w h).lastH = h := rfl
@[simp] theorem State.resizeStore_base (w h : Dim) : (s.resizeStore w h).base = 0 := rfl
@[simp] theorem State.resizeStore_hist (w h : Dim) :
    (s.resizeStore w h).hist = (List.range (w.toNat * h.toNat * Config.depth)).map (Config.freePixel s.drawn) := rfl
@[simp] theorem State.resizeStore_outW (w h : Dim) : (s.resizeStore w h).outW = s.outW := rfl
@[simp] theorem State.resizeStore_outH (w h : Dim) : (s.resizeStore w h).outH = s.outH := rfl
@[simp] theorem State.resizeStore_p (w h : Dim) : (s.resizeStore w h).p = s.p := rfl
@[simp] theorem State.resizeStore_out (w h : Dim) : (s.resizeStore w h).out = s.out := rfl
@[simp] theorem State.resizeStore_x (w h : Dim) : (s.resizeStore w h).x = s.x := rfl
@[simp] theorem State.resizeStore_y (w h : Dim) : (s.resizeStore w h).y = s.y := rfl
@[simp] theorem State.resizeStore_mem (w h : Dim) : (s.resizeStore w h).mem = s.mem := rfl
@[simp] theorem State.resizeStore_inbox (w h : Dim) : (s.resizeStore w h).inbox = s.inbox := rfl
@[simp] theorem State.resizeStore_ret (w h : Dim) : (s.resizeStore w h).ret = s.ret := rfl
@[simp] theorem State.resizeStore_drawn (w h : Dim) : (s.resizeStore w h).drawn = s.drawn + 1 := rfl

/-! ### `seedStore` -/

@[simp] theorem State.seedStore_constructed (frame : List Pixel) :
    (s.seedStore frame).constructed = s.constructed := rfl
@[simp] theorem State.seedStore_gamma (frame : List Pixel) : (s.seedStore frame).gamma = s.gamma := rfl
@[simp] theorem State.seedStore_ratio (frame : List Pixel) : (s.seedStore frame).ratio = s.ratio := rfl
@[simp] theorem State.seedStore_lut (frame : List Pixel) : (s.seedStore frame).lut = s.lut := rfl
@[simp] theorem State.seedStore_mode (frame : List Pixel) : (s.seedStore frame).mode = s.mode := rfl
@[simp] theorem State.seedStore_fullbright (frame : List Pixel) : (s.seedStore frame).fullbright = s.fullbright := rfl
@[simp] theorem State.seedStore_motionCheck (frame : List Pixel) :
    (s.seedStore frame).motionCheck = s.motionCheck := rfl
@[simp] theorem State.seedStore_seeded (frame : List Pixel) : (s.seedStore frame).seeded = true := rfl
@[simp] theorem State.seedStore_lastW (frame : List Pixel) : (s.seedStore frame).lastW = s.lastW := rfl
@[simp] theorem State.seedStore_lastH (frame : List Pixel) : (s.seedStore frame).lastH = s.lastH := rfl
@[simp] theorem State.seedStore_base (frame : List Pixel) : (s.seedStore frame).base = s.base := rfl
@[simp] theorem State.seedStore_hist (frame : List Pixel) :
    (s.seedStore frame).hist = frame ++ frame ++ frame ++ frame ++ frame := rfl
@[simp] theorem State.seedStore_outW (frame : List Pixel) : (s.seedStore frame).outW = s.outW := rfl
@[simp] theorem State.seedStore_outH (frame : List Pixel) : (s.seedStore frame).outH = s.outH := rfl
@[simp] theorem State.seedStore_p (frame : List Pixel) : (s.seedStore frame).p = s.p := rfl
@[simp] theorem State.seedStore_out (frame : List Pixel) : (s.seedStore frame).out = s.out := rfl
@[simp] theorem State.seedStore_x (frame : List Pixel) : (s.seedStore frame).x = s.x := rfl
@[simp] theorem State.seedStore_y (frame : List Pixel) : (s.seedStore frame).y = s.y := rfl
@[simp] theorem State.seedStore_mem (frame : List Pixel) : (s.seedStore frame).mem = s.mem := rfl
@[simp] theorem State.seedStore_inbox (frame : List Pixel) : (s.seedStore frame).inbox = s.inbox := rfl
@[simp] theorem State.seedStore_ret (frame : List Pixel) : (s.seedStore frame).ret = s.ret := rfl
@[simp] theorem State.seedStore_drawn (frame : List Pixel) : (s.seedStore frame).drawn = s.drawn := rfl

/-! ### `setHist` -/

@[simp] theorem State.setHist_constructed (k : Nat) (v : Pixel) : (s.setHist k v).constructed = s.constructed := rfl
@[simp] theorem State.setHist_gamma (k : Nat) (v : Pixel) : (s.setHist k v).gamma = s.gamma := rfl
@[simp] theorem State.setHist_ratio (k : Nat) (v : Pixel) : (s.setHist k v).ratio = s.ratio := rfl
@[simp] theorem State.setHist_lut (k : Nat) (v : Pixel) : (s.setHist k v).lut = s.lut := rfl
@[simp] theorem State.setHist_mode (k : Nat) (v : Pixel) : (s.setHist k v).mode = s.mode := rfl
@[simp] theorem State.setHist_fullbright (k : Nat) (v : Pixel) : (s.setHist k v).fullbright = s.fullbright := rfl
@[simp] theorem State.setHist_motionCheck (k : Nat) (v : Pixel) : (s.setHist k v).motionCheck = s.motionCheck := rfl
@[simp] theorem State.setHist_seeded (k : Nat) (v : Pixel) : (s.setHist k v).seeded = s.seeded := rfl
@[simp] theorem State.setHist_lastW (k : Nat) (v : Pixel) : (s.setHist k v).lastW = s.lastW := rfl
@[simp] theorem State.setHist_lastH (k : Nat) (v : Pixel) : (s.setHist k v).lastH = s.lastH := rfl
@[simp] theorem State.setHist_base (k : Nat) (v : Pixel) : (s.setHist k v).base = s.base := rfl
@[simp] theorem State.setHist_hist (k : Nat) (v : Pixel) : (s.setHist k v).hist = s.hist.set k v := rfl
@[simp] theorem State.setHist_outW (k : Nat) (v : Pixel) : (s.setHist k v).outW = s.outW := rfl
@[simp] theorem State.setHist_outH (k : Nat) (v : Pixel) : (s.setHist k v).outH = s.outH := rfl
@[simp] theorem State.setHist_p (k : Nat) (v : Pixel) : (s.setHist k v).p = s.p := rfl
@[simp] theorem State.setHist_out (k : Nat) (v : Pixel) : (s.setHist k v).out = s.out := rfl
@[simp] theorem State.setHist_x (k : Nat) (v : Pixel) : (s.setHist k v).x = s.x := rfl
@[simp] theorem State.setHist_y (k : Nat) (v : Pixel) : (s.setHist k v).y = s.y := rfl
@[simp] theorem State.setHist_mem (k : Nat) (v : Pixel) : (s.setHist k v).mem = s.mem := rfl
@[simp] theorem State.setHist_inbox (k : Nat) (v : Pixel) : (s.setHist k v).inbox = s.inbox := rfl
@[simp] theorem State.setHist_ret (k : Nat) (v : Pixel) : (s.setHist k v).ret = s.ret := rfl
@[simp] theorem State.setHist_drawn (k : Nat) (v : Pixel) : (s.setHist k v).drawn = s.drawn := rfl

/-! ### `advanceBase` -/

@[simp] theorem State.advanceBase_constructed : (s.advanceBase).constructed = s.constructed := rfl
@[simp] theorem State.advanceBase_gamma : (s.advanceBase).gamma = s.gamma := rfl
@[simp] theorem State.advanceBase_ratio : (s.advanceBase).ratio = s.ratio := rfl
@[simp] theorem State.advanceBase_lut : (s.advanceBase).lut = s.lut := rfl
@[simp] theorem State.advanceBase_mode : (s.advanceBase).mode = s.mode := rfl
@[simp] theorem State.advanceBase_fullbright : (s.advanceBase).fullbright = s.fullbright := rfl
@[simp] theorem State.advanceBase_motionCheck : (s.advanceBase).motionCheck = s.motionCheck := rfl
@[simp] theorem State.advanceBase_seeded : (s.advanceBase).seeded = s.seeded := rfl
@[simp] theorem State.advanceBase_lastW : (s.advanceBase).lastW = s.lastW := rfl
@[simp] theorem State.advanceBase_lastH : (s.advanceBase).lastH = s.lastH := rfl
@[simp] theorem State.advanceBase_base :
    (s.advanceBase).base = ⟨(s.base.val + 4) % 5, Nat.mod_lt _ (by decide)⟩ := rfl
@[simp] theorem State.advanceBase_hist : (s.advanceBase).hist = s.hist := rfl
@[simp] theorem State.advanceBase_outW : (s.advanceBase).outW = s.outW := rfl
@[simp] theorem State.advanceBase_outH : (s.advanceBase).outH = s.outH := rfl
@[simp] theorem State.advanceBase_p : (s.advanceBase).p = s.p := rfl
@[simp] theorem State.advanceBase_out : (s.advanceBase).out = s.out := rfl
@[simp] theorem State.advanceBase_x : (s.advanceBase).x = s.x := rfl
@[simp] theorem State.advanceBase_y : (s.advanceBase).y = s.y := rfl
@[simp] theorem State.advanceBase_mem : (s.advanceBase).mem = s.mem := rfl
@[simp] theorem State.advanceBase_inbox : (s.advanceBase).inbox = s.inbox := rfl
@[simp] theorem State.advanceBase_ret : (s.advanceBase).ret = s.ret := rfl
@[simp] theorem State.advanceBase_drawn : (s.advanceBase).drawn = s.drawn := rfl

/-! ### `setMem` -/

@[simp] theorem State.setMem_constructed (m : Memory) : (s.setMem m).constructed = s.constructed := rfl
@[simp] theorem State.setMem_gamma (m : Memory) : (s.setMem m).gamma = s.gamma := rfl
@[simp] theorem State.setMem_ratio (m : Memory) : (s.setMem m).ratio = s.ratio := rfl
@[simp] theorem State.setMem_lut (m : Memory) : (s.setMem m).lut = s.lut := rfl
@[simp] theorem State.setMem_mode (m : Memory) : (s.setMem m).mode = s.mode := rfl
@[simp] theorem State.setMem_fullbright (m : Memory) : (s.setMem m).fullbright = s.fullbright := rfl
@[simp] theorem State.setMem_motionCheck (m : Memory) : (s.setMem m).motionCheck = s.motionCheck := rfl
@[simp] theorem State.setMem_seeded (m : Memory) : (s.setMem m).seeded = s.seeded := rfl
@[simp] theorem State.setMem_lastW (m : Memory) : (s.setMem m).lastW = s.lastW := rfl
@[simp] theorem State.setMem_lastH (m : Memory) : (s.setMem m).lastH = s.lastH := rfl
@[simp] theorem State.setMem_base (m : Memory) : (s.setMem m).base = s.base := rfl
@[simp] theorem State.setMem_hist (m : Memory) : (s.setMem m).hist = s.hist := rfl
@[simp] theorem State.setMem_outW (m : Memory) : (s.setMem m).outW = s.outW := rfl
@[simp] theorem State.setMem_outH (m : Memory) : (s.setMem m).outH = s.outH := rfl
@[simp] theorem State.setMem_p (m : Memory) : (s.setMem m).p = s.p := rfl
@[simp] theorem State.setMem_out (m : Memory) : (s.setMem m).out = s.out := rfl
@[simp] theorem State.setMem_x (m : Memory) : (s.setMem m).x = s.x := rfl
@[simp] theorem State.setMem_y (m : Memory) : (s.setMem m).y = s.y := rfl
@[simp] theorem State.setMem_mem (m : Memory) : (s.setMem m).mem = m := rfl
@[simp] theorem State.setMem_inbox (m : Memory) : (s.setMem m).inbox = s.inbox := rfl
@[simp] theorem State.setMem_ret (m : Memory) : (s.setMem m).ret = s.ret := rfl
@[simp] theorem State.setMem_drawn (m : Memory) : (s.setMem m).drawn = s.drawn := rfl

/-! ### `setInbox` -/

@[simp] theorem State.setInbox_constructed (rest : List Input) : (s.setInbox rest).constructed = s.constructed := rfl
@[simp] theorem State.setInbox_gamma (rest : List Input) : (s.setInbox rest).gamma = s.gamma := rfl
@[simp] theorem State.setInbox_ratio (rest : List Input) : (s.setInbox rest).ratio = s.ratio := rfl
@[simp] theorem State.setInbox_lut (rest : List Input) : (s.setInbox rest).lut = s.lut := rfl
@[simp] theorem State.setInbox_mode (rest : List Input) : (s.setInbox rest).mode = s.mode := rfl
@[simp] theorem State.setInbox_fullbright (rest : List Input) : (s.setInbox rest).fullbright = s.fullbright := rfl
@[simp] theorem State.setInbox_motionCheck (rest : List Input) : (s.setInbox rest).motionCheck = s.motionCheck := rfl
@[simp] theorem State.setInbox_seeded (rest : List Input) : (s.setInbox rest).seeded = s.seeded := rfl
@[simp] theorem State.setInbox_lastW (rest : List Input) : (s.setInbox rest).lastW = s.lastW := rfl
@[simp] theorem State.setInbox_lastH (rest : List Input) : (s.setInbox rest).lastH = s.lastH := rfl
@[simp] theorem State.setInbox_base (rest : List Input) : (s.setInbox rest).base = s.base := rfl
@[simp] theorem State.setInbox_hist (rest : List Input) : (s.setInbox rest).hist = s.hist := rfl
@[simp] theorem State.setInbox_outW (rest : List Input) : (s.setInbox rest).outW = s.outW := rfl
@[simp] theorem State.setInbox_outH (rest : List Input) : (s.setInbox rest).outH = s.outH := rfl
@[simp] theorem State.setInbox_p (rest : List Input) : (s.setInbox rest).p = s.p := rfl
@[simp] theorem State.setInbox_out (rest : List Input) : (s.setInbox rest).out = s.out := rfl
@[simp] theorem State.setInbox_x (rest : List Input) : (s.setInbox rest).x = s.x := rfl
@[simp] theorem State.setInbox_y (rest : List Input) : (s.setInbox rest).y = s.y := rfl
@[simp] theorem State.setInbox_mem (rest : List Input) : (s.setInbox rest).mem = s.mem := rfl
@[simp] theorem State.setInbox_inbox (rest : List Input) : (s.setInbox rest).inbox = rest := rfl
@[simp] theorem State.setInbox_ret (rest : List Input) : (s.setInbox rest).ret = s.ret := rfl
@[simp] theorem State.setInbox_drawn (rest : List Input) : (s.setInbox rest).drawn = s.drawn := rfl

end Sys2Proof.Machine
end

