-- ==== Sys2Proof/Laws/Ops.lean ====
section
/-! SUPPORT. What each shared operation of Machine/Ops.lean can do, said once: if it answers a next state, then which.
Later proofs cite these lemmas and unfold no operation. -/

namespace Sys2Proof.Machine

/-! ### Sequencing -/

@[simp] theorem andThen_next_eq (s : State) (f : State → Step) : andThen (.next s) f = f s := rfl

theorem andThen_next {r : Step} {f : State → Step} {t : State} :
    andThen r f = .next t ↔ ∃ u, r = .next u ∧ f u = .next t := by
  cases r <;> simp [andThen]

theorem forEach_nil (f : Nat × Nat → State → Step) (s : State) : forEach f [] s = .next s := rfl

theorem forEach_cons (f : Nat × Nat → State → Step) (q : Nat × Nat) (qs : List (Nat × Nat)) (s : State) :
    forEach f (q :: qs) s = andThen (f q s) (forEach f qs) := rfl

/-- What every position keeps, the whole keeps. -/
theorem forEach_keeps {f : Nat × Nat → State → Step} (P : State → Prop) {qs : List (Nat × Nat)}
    (h : ∀ q ∈ qs, ∀ s t, P s → f q s = .next t → P t) {s t : State} (hs : P s)
    (ht : forEach f qs s = .next t) : P t := by
  induction qs generalizing s with
  | nil => rw [forEach_nil] at ht; cases ht; exact hs
  | cons q qs ih =>
    rw [forEach_cons, andThen_next] at ht
    obtain ⟨u, hu, ht⟩ := ht
    exact ih (fun q hq => h q (List.mem_cons_of_mem _ hq)) (h q List.mem_cons_self s u hs hu) ht

/-- Where every position goes on from states with `P` and keeps `P`, the whole goes on. -/
theorem forEach_completes {f : Nat × Nat → State → Step} (P : State → Prop) {qs : List (Nat × Nat)}
    (h : ∀ q ∈ qs, ∀ s, P s → ∃ t, f q s = .next t ∧ P t) {s : State} (hs : P s) :
    ∃ t, forEach f qs s = .next t ∧ P t := by
  induction qs generalizing s with
  | nil => exact ⟨s, rfl, hs⟩
  | cons q qs ih =>
    obtain ⟨u, hu, hpu⟩ := h q List.mem_cons_self s hs
    obtain ⟨t, ht, hpt⟩ := ih (fun q hq => h q (List.mem_cons_of_mem _ hq)) hpu
    exact ⟨t, by rw [forEach_cons, hu, andThen_next_eq]; exact ht, hpt⟩

theorem whenConstructed_next {s t : State} {r : Step} :
    whenConstructed s r = .next t ↔ s.constructed = true ∧ r = .next t := by
  unfold whenConstructed; split_ifs with h <;> simp [h]

theorem underDuties_next {o : RenderOperands} {w : Bool} {s t : State} {r : Step} :
    underDuties o w s r = .next t ↔ brokenDuty o w s.mem = none ∧ r = .next t := by
  unfold underDuties; cases h : brokenDuty o w s.mem <;> simp

/-! ### Positions and duties -/

theorem mem_positions {w h : Nat} {q : Nat × Nat} : q ∈ positions w h ↔ q.1 < w ∧ q.2 < h := by
  obtain ⟨x, y⟩ := q
  simp only [positions, List.mem_flatMap, List.mem_map, List.mem_range, Prod.mk.injEq]
  constructor
  · rintro ⟨y', hy, x', hx, rfl, rfl⟩; exact ⟨hx, hy⟩
  · rintro ⟨hx, hy⟩; exact ⟨y, hy, x, hx, rfl, rfl⟩

theorem length_positions (w h : Nat) : (positions w h).length = w * h := by
  simp [positions, List.length_flatMap, Nat.mul_comm]

theorem positions_nodup (w h : Nat) : (positions w h).Nodup := by
  unfold positions
  rw [List.nodup_flatMap]
  refine ⟨fun y _ => (List.nodup_range).map fun a b hab => (Prod.mk.inj hab).1, ?_⟩
  refine (List.nodup_range).imp ?_
  intro a b hab q hq hq'
  obtain ⟨_, _, rfl⟩ := List.mem_map.1 hq
  obtain ⟨_, _, h⟩ := List.mem_map.1 hq'
  exact hab (Prod.mk.inj h).2.symm

/-- The overlap check is exactly host duty 3: no cell is both read and written (20_memory.md R52). -/
theorem overlaps_eq_false (o : RenderOperands) :
    overlaps o = false ↔
      ∀ x < o.sourceW.toNat, ∀ y < o.sourceH.toNat, ∀ u < 2 * o.sourceW.toNat, ∀ v < 2 * o.sourceH.toNat,
        srcCell o x y ≠ dstCell o.dest o.dstStride u v := by
  have hb : overlaps o = false ↔ ∀ y < o.sourceH.toNat, ∀ v < 2 * o.sourceH.toNat,
      o.source + (y * o.srcStride.toNat + 0) < o.dest + (v * o.dstStride.toNat + 2 * o.sourceW.toNat) →
        ¬ o.dest + (v * o.dstStride.toNat + 0) < o.source + (y * o.srcStride.toNat + o.sourceW.toNat) := by
    simp [overlaps, srcCell, dstCell]
  rw [hb]
  unfold srcCell dstCell
  constructor
  · intro h x hx y hy u hu v hv he
    have := h y hy v hv
    omega
  · intro h y hy v hv hlt hc
    rcases Nat.le_total (o.source + y * o.srcStride.toNat) (o.dest + v * o.dstStride.toNat) with hle | hle
    · exact h (o.dest + v * o.dstStride.toNat - (o.source + y * o.srcStride.toNat)) (by omega) y hy 0 (by omega) v hv
        (by omega)
    · exact h 0 (by omega) y hy (o.source + y * o.srcStride.toNat - (o.dest + v * o.dstStride.toNat)) (by omega) v hv
        (by omega)

/-- No duty is broken exactly where the host meets its duties (20_memory.md R52). -/
theorem brokenDuty_eq_none (o : RenderOperands) (w : Bool) (m : Memory) :
    brokenDuty o w m = none ↔ SourceDuties o m ∧ (w = true → DestDuties o m) := by
  have hs : Memory.holdsAll m o.source (srcExtent o) = true ↔
      ∀ k < srcExtent o, (Memory.readPixel m (o.source + k)).isSome = true := Memory.holdsAll_iff _ _ _
  have hd : Memory.holdsAll m o.dest (dstExtent o) = true ↔
      ∀ k < dstExtent o, (Memory.readPixel m (o.dest + k)).isSome = true := Memory.holdsAll_iff _ _ _
  have ho := overlaps_eq_false o
  unfold brokenDuty SourceDuties DestDuties
  rw [← hs, ← hd, ← ho]
  unfold srcStrideOk dstStrideOk
  cases w <;> split_ifs <;> simp_all

/-! ### History store -/

theorem seedFrame_next {frame : List Pixel} {s t : State} :
    seedFrame frame s = .next t ↔ s.seeded = false ∧ frame.length = s.slotSize ∧ t = s.seedStore frame := by
  unfold seedFrame; split_ifs with h1 h2 <;> simp_all [eq_comm (b := t)]

theorem pushPixel_next {x y : Nat} {v : Pixel} {s t : State} :
    pushPixel x y v s = .next t ↔ s.seeded = true ∧ x < s.lastW.toNat ∧ y < s.lastH.toNat ∧
      s.pushCell x y < s.hist.length ∧ t = s.setHist (s.pushCell x y) v := by
  unfold pushPixel; split_ifs with h1 h2 <;> simp_all [eq_comm (b := t)]

theorem advanceStore_next {s t : State} :
    advanceStore s = .next t ↔ s.seeded = true ∧ t = s.advanceBase := by
  unfold advanceStore; split_ifs with h <;> simp_all [eq_comm (b := t)]

/-- A cell of the store, seen through its slot, column and row, determines them. -/
theorem State.histCell_inj {s : State} {a b x y x' y' : Nat} (hx : x < s.lastW.toNat) (hx' : x' < s.lastW.toNat)
    (hy : y < s.lastH.toNat) (hy' : y' < s.lastH.toNat) (h : s.histCell a x y = s.histCell b x' y') :
    a = b ∧ x = x' ∧ y = y' := by
  have key : ∀ a x y, s.histCell a x y = (a * s.lastH.toNat + y) * s.lastW.toNat + x := by
    intro a x y; unfold State.histCell State.slotSize; ring
  rw [key, key] at h
  have hw : 0 < s.lastW.toNat := by omega
  have hxx : x = x' := by
    have := congrArg (· % s.lastW.toNat) h
    simpa [Nat.mul_comm _ s.lastW.toNat, Nat.mul_add_mod, Nat.mod_eq_of_lt hx, Nat.mod_eq_of_lt hx'] using this
  have h1 : a * s.lastH.toNat + y = b * s.lastH.toNat + y' := by
    subst hxx
    exact Nat.eq_of_mul_eq_mul_right hw (by omega)
  have hh : 0 < s.lastH.toNat := by omega
  have hyy : y = y' := by
    have := congrArg (· % s.lastH.toNat) h1
    simpa [Nat.mul_comm _ s.lastH.toNat, Nat.mul_add_mod, Nat.mod_eq_of_lt hy, Nat.mod_eq_of_lt hy'] using this
  subst hyy
  exact ⟨Nat.eq_of_mul_eq_mul_right hh (by omega), hxx, rfl⟩

/-- A cell of slot 0 to 4 at a position of the grid lies in a store of the right size. -/
theorem State.histCell_lt {s : State} {a x y : Nat} (ha : a < 5) (hx : x < s.lastW.toNat) (hy : y < s.lastH.toNat) :
    s.histCell a x y < 5 * (s.lastW.toNat * s.lastH.toNat) := by
  have h1 : y * s.lastW.toNat + x < s.lastW.toNat * s.lastH.toNat := by
    calc y * s.lastW.toNat + x < y * s.lastW.toNat + s.lastW.toNat := by omega
      _ = (y + 1) * s.lastW.toNat := by ring
      _ ≤ s.lastH.toNat * s.lastW.toNat := Nat.mul_le_mul_right _ hy
      _ = s.lastW.toNat * s.lastH.toNat := Nat.mul_comm _ _
  have h2 : (a + 1) * (s.lastW.toNat * s.lastH.toNat) ≤ 5 * (s.lastW.toNat * s.lastH.toNat) :=
    Nat.mul_le_mul_right _ ha
  unfold State.histCell State.slotSize
  rw [Nat.add_mul] at h2
  omega

theorem slotOf_lt (b : Fin 5) (age : Nat) : slotOf b age < 5 := Nat.mod_lt _ (by decide)

theorem pushSlot_lt (b : Fin 5) : pushSlot b < 5 := Nat.mod_lt _ (by decide)

/-- The slot a push writes is the slot of age 5 (42_history_store.md R154). -/
theorem pushSlot_eq_slotOf_five (b : Fin 5) : pushSlot b = slotOf b 5 := rfl

/-- After ADVANCE the slot just filled is age 1 and every other frame is one age older (42_history_store.md R155). -/
theorem slotOf_advanceBase (s : State) :
    slotOf s.advanceBase.base 1 = slotOf s.base 5 ∧
      ∀ age, 1 ≤ age → age ≤ 4 → slotOf s.advanceBase.base (age + 1) = slotOf s.base age := by
  refine ⟨?_, fun age h1 h4 => ?_⟩ <;> simp only [slotOf, State.advanceBase_base] <;> omega

/-! ### Blocks of the destination -/

/-- The four cells of the block of a position (44_compositor.md R195). -/
def blockCells (dest : Nat) (stride : Dim) (x y : Nat) : List Nat :=
  [dstCell dest stride (2 * x) (2 * y), dstCell dest stride (2 * x + 1) (2 * y),
    dstCell dest stride (2 * x) (2 * y + 1), dstCell dest stride (2 * x + 1) (2 * y + 1)]

theorem holdsBlock_iff (m : Memory) (dest : Nat) (stride : Dim) (x y : Nat) :
    holdsBlock m dest stride x y = true ↔ ∀ c ∈ blockCells dest stride x y, Memory.holds m c = true := by
  simp [holdsBlock, blockCells, and_assoc]

/-- A pixel read after a block write: the block's cells hold the value, every other cell is as before. -/
theorem readPixel_writeBlock (m : Memory) (dest : Nat) (stride : Dim) (x y : Nat) (v : Pixel) (c : Nat) :
    Memory.readPixel (writeBlock m dest stride x y v) c =
      if c ∈ blockCells dest stride x y then some v else Memory.readPixel m c := by
  simp only [writeBlock, Memory.readPixel_writePixel, blockCells, List.mem_cons, List.not_mem_nil, or_false]
  split_ifs <;> simp_all

/-- A block write leaves every byte outside its four cells alone. -/
theorem read_writeBlock_other (m : Memory) (dest : Nat) (stride : Dim) (x y : Nat) (v : Pixel) {a : Nat}
    (h : ∀ c ∈ blockCells dest stride x y, a ≠ 2 * c ∧ a ≠ 2 * c + 1) :
    Memory.read (writeBlock m dest stride x y v) a = Memory.read m a := by
  simp only [blockCells, List.forall_mem_cons, List.not_mem_nil, false_implies, implies_true, and_true] at h
  obtain ⟨h1, h2, h3, h4⟩ := h
  unfold writeBlock
  rw [Memory.read_writePixel_other _ _ h4.1 h4.2, Memory.read_writePixel_other _ _ h3.1 h3.2,
    Memory.read_writePixel_other _ _ h2.1 h2.2, Memory.read_writePixel_other _ _ h1.1 h1.2]

theorem writeBlock_wf {m : Memory} (h : Memory.wf m) (dest : Nat) (stride : Dim) (x y : Nat) (v : Pixel) :
    Memory.wf (writeBlock m dest stride x y v) :=
  Memory.writePixel_wf (Memory.writePixel_wf (Memory.writePixel_wf (Memory.writePixel_wf h _ _) _ _) _ _) _ _

/-- A block write takes no cell away. -/
theorem holds_writeBlock {m : Memory} {c : Nat} (h : Memory.holds m c = true) (dest : Nat) (stride : Dim) (x y : Nat)
    (v : Pixel) : Memory.holds (writeBlock m dest stride x y v) c = true :=
  Memory.holds_writePixel (Memory.holds_writePixel (Memory.holds_writePixel (Memory.holds_writePixel h _ _) _ _) _ _) _ _

/-- A block write into held cells neither adds an address nor takes one away. -/
theorem read_isSome_writeBlock {m : Memory} {dest : Nat} {stride : Dim} {x y : Nat}
    (h : holdsBlock m dest stride x y = true) (v : Pixel) (a : Nat) :
    (Memory.read (writeBlock m dest stride x y v) a).isSome = (Memory.read m a).isSome := by
  have hb := (holdsBlock_iff m dest stride x y).1 h
  simp only [blockCells, List.forall_mem_cons, List.not_mem_nil, false_implies, implies_true, and_true] at hb
  obtain ⟨h1, h2, h3, h4⟩ := hb
  unfold writeBlock
  rw [Memory.read_isSome_writePixel (Memory.holds_writePixel (Memory.holds_writePixel (Memory.holds_writePixel h4 _ _)
      _ _) _ _),
    Memory.read_isSome_writePixel (Memory.holds_writePixel (Memory.holds_writePixel h3 _ _) _ _),
    Memory.read_isSome_writePixel (Memory.holds_writePixel h2 _ _), Memory.read_isSome_writePixel h1]

theorem replicate_next {dest : Nat} {stride : Dim} {x y : Nat} {v : Pixel} {s t : State} :
    replicate dest stride x y v s = .next t ↔
      holdsBlock s.mem dest stride x y = true ∧ t = s.setMem (writeBlock s.mem dest stride x y v) := by
  unfold replicate; split_ifs with h <;> simp_all [eq_comm (b := t)]

/-! ### The passes -/

theorem seedPosition_next {o : RenderOperands} {q : Nat × Nat} {s t : State} :
    seedPosition o q s = .next t ↔ ∃ v, Memory.readPixel s.mem (srcCell o q.1 q.2) = some v ∧
      holdsBlock s.mem o.dest o.dstStride q.1 q.2 = true ∧
      t = (s.setCursor q.1 q.2).setMem (writeBlock s.mem o.dest o.dstStride q.1 q.2 v) := by
  unfold seedPosition
  cases h : Memory.readPixel s.mem (srcCell o q.1 q.2) <;> simp [replicate_next]

theorem seedFromSource_next {o : RenderOperands} {s t : State} :
    seedFromSource o s = .next t ↔ ∃ frame, sourceFrame o s.mem = some frame ∧ s.seeded = false ∧
      frame.length = s.slotSize ∧ t = s.seedStore frame := by
  unfold seedFromSource
  cases h : sourceFrame o s.mem <;> simp [seedFrame_next]

theorem seedPass_next {o : RenderOperands} {s t : State} :
    seedPass o s = .next t ↔ s.seeded = false ∧ s.fits o = true ∧
      ∃ u v, forEach (seedPosition o) (positions o.sourceW.toNat o.sourceH.toNat) s = .next u ∧
        seedFromSource o u = .next v ∧ t = v.dropCursor := by
  unfold seedPass
  split_ifs with h1 h2
  · simp [h1]
  · simp only [Bool.not_eq_true] at h1
    simp only [andThen_next, h1, h2, true_and]
    constructor
    · rintro ⟨u, hu, v, hv, ht⟩; cases ht; exact ⟨u, v, hu, hv, rfl⟩
    · rintro ⟨u, v, hu, hv, rfl⟩; exact ⟨u, hu, v, hv, rfl⟩
  · simp [h2]

theorem evaluatePixel_next {ps : Samples} {s t : State} :
    evaluatePixel ps s = .next t ↔
      ∃ v, pixelOut s.mode s.fullbright s.motionCheck s.lut ps = some v ∧ t = s.setOut v := by
  unfold evaluatePixel
  cases h : pixelOut s.mode s.fullbright s.motionCheck s.lut ps <;> simp [eq_comm]

/-- PIXEL has a value in every legal mode (43_pixel_blender.md R178). -/
theorem pixelOut_isSome {mode : BitVec 2} (h : mode ≠ 3) (fb mc : Bool) (lut : Lut) (ps : Samples) :
    ∃ v, pixelOut mode fb mc lut ps = some v := by
  unfold pixelOut
  split_ifs with h0 h1 h2 <;> first | exact ⟨_, rfl⟩ | skip
  revert h h0 h1 h2; revert mode; decide

theorem samplesAt_eq {s : State} {p0 : Pixel} {x y : Nat} {ps : Samples} :
    s.samplesAt p0 x y = some ps ↔ ps.p0 = p0 ∧ s.histAt 1 x y = some ps.p1 ∧ s.histAt 2 x y = some ps.p2 ∧
      s.histAt 3 x y = some ps.p3 ∧ s.histAt 4 x y = some ps.p4 ∧ s.histAt 5 x y = some ps.p5 := by
  obtain ⟨a0, a1, a2, a3, a4, a5⟩ := ps
  unfold State.samplesAt
  split
  · rename_i h1 h2 h3 h4 h5
    simp [h1, h2, h3, h4, h5, eq_comm]
  · rename_i h
    simp only [reduceCtorEq, false_iff]
    rintro ⟨-, h1, h2, h3, h4, h5⟩
    exact h _ _ _ _ _ h1 h2 h3 h4 h5

theorem blendPosition_next {o : RenderOperands} {q : Nat × Nat} {s t : State} :
    blendPosition o q s = .next t ↔ ∃ p0 ps v, Memory.readPixel s.mem (srcCell o q.1 q.2) = some p0 ∧
      s.samplesAt p0 q.1 q.2 = some ps ∧
      pixelOut s.mode s.fullbright s.motionCheck s.lut ps = some v ∧
      holdsBlock s.mem o.dest o.dstStride q.1 q.2 = true ∧
      pushPixel q.1 q.2 ps.p0 ((((s.setCursor q.1 q.2).setLatches ps).setOut v).setMem
        (writeBlock s.mem o.dest o.dstStride q.1 q.2 v)) = .next t := by
  unfold blendPosition
  cases h : Memory.readPixel s.mem (srcCell o q.1 q.2) with
  | none => simp
  | some p0 =>
    simp only [Option.some.injEq]
    cases h' : s.samplesAt p0 q.1 q.2 with
    | none =>
      simp only [reduceCtorEq, false_iff]
      rintro ⟨p, ps, v, rfl, hs, -⟩
      rw [h'] at hs; cases hs
    | some ps =>
      simp only [andThen_next, evaluatePixel_next, replicate_next]
      constructor
      · rintro ⟨u, ⟨v, hv, rfl⟩, w, ⟨hh, rfl⟩, ht⟩
        exact ⟨p0, ps, v, rfl, h', hv, hh, ht⟩
      · rintro ⟨p, ps', v, rfl, hs, hv, hh, ht⟩
        rw [h'] at hs; cases hs
        exact ⟨_, ⟨v, hv, rfl⟩, _, ⟨hh, rfl⟩, ht⟩

theorem blendPass_next {o : RenderOperands} {s t : State} :
    blendPass o s = .next t ↔ s.seeded = true ∧ s.fits o = true ∧
      ∃ u, forEach (blendPosition o) (positions o.sourceW.toNat o.sourceH.toNat) s = .next u ∧
        u.seeded = true ∧ t = u.advanceBase.dropCursor.dropLatches := by
  unfold blendPass
  split_ifs with h1 h2
  · simp only [andThen_next, advanceStore_next, h1, h2, true_and]
    constructor
    · rintro ⟨u, hu, v, ⟨hs, rfl⟩, ht⟩; cases ht; exact ⟨u, hu, hs, rfl⟩
    · rintro ⟨u, hu, hs, rfl⟩; exact ⟨u, hu, _, ⟨hs, rfl⟩, rfl⟩
  · simp [h2]
  · simp [h1]

theorem fits_iff {s : State} {o : RenderOperands} : s.fits o = true ↔ s.lastW = o.sourceW ∧ s.lastH = o.sourceH := by
  simp [State.fits]

theorem trackDimensions_fits {s : State} {o : RenderOperands} (h : s.fits o = true) : s.trackDimensions o = s := by
  simp [State.trackDimensions, h]

theorem trackDimensions_resizes {s : State} {o : RenderOperands} (h : s.fits o = false) :
    s.trackDimensions o = s.resizeStore o.sourceW o.sourceH := by
  simp [State.trackDimensions, h]

/-- After step 1 of RENDER the store has the dimensions of the source frame (20_memory.md R50). -/
theorem fits_trackDimensions (s : State) (o : RenderOperands) : (s.trackDimensions o).fits o = true := by
  cases h : s.fits o
  · rw [trackDimensions_resizes h]; simp [State.fits]
  · rw [trackDimensions_fits h, h]

theorem renderFrame_next {o : RenderOperands} {s t : State} :
    renderFrame o s = .next t ↔
      (tooSmall o = true ∧ t = (s.trackDimensions o).signalTooSmall) ∨
      (tooSmall o = false ∧ (s.trackDimensions o).seeded = true ∧
        ∃ u, blendPass o (s.trackDimensions o) = .next u ∧ t = u.returnRendered o) ∨
      (tooSmall o = false ∧ (s.trackDimensions o).seeded = false ∧
        ∃ u, seedPass o (s.trackDimensions o) = .next u ∧ t = u.returnRendered o) := by
  unfold renderFrame
  cases h1 : tooSmall o <;> cases h2 : (s.trackDimensions o).seeded <;>
    simp [h2, andThen_next, eq_comm (b := t)]

end Sys2Proof.Machine
end

