-- ==== Sys2Proof/Laws/Passes.lean ====
section
/-! SUPPORT. The passes over a frame, position by position: what a run over a list of positions leaves in DST, in HIST
and elsewhere. -/

namespace Sys2Proof.Machine

/-! ### Cells of the destination -/

/-- With a stride of at least `n`, a cell of columns `0 .. n - 1` determines its column and row (20_memory.md R42). -/
theorem dstCell_inj {dest : Nat} {stride : Dim} {n u v u' v' : Nat} (hs : n ≤ stride.toNat) (hu : u < n) (hu' : u' < n)
    (h : dstCell dest stride u v = dstCell dest stride u' v') : u = u' ∧ v = v' := by
  unfold dstCell at h
  have h1 : v * stride.toNat + u = v' * stride.toNat + u' := by omega
  have hu1 : u < stride.toNat := by omega
  have hu2 : u' < stride.toNat := by omega
  have huu : u = u' := by
    have := congrArg (· % stride.toNat) h1
    simpa [Nat.mul_comm _ stride.toNat, Nat.mul_add_mod, Nat.mod_eq_of_lt hu1, Nat.mod_eq_of_lt hu2] using this
  subst huu
  have h2 : v * stride.toNat = v' * stride.toNat := by omega
  exact ⟨rfl, Nat.eq_of_mul_eq_mul_right (by omega) h2⟩

theorem mem_blockCells {dest : Nat} {stride : Dim} {x y c : Nat} :
    c ∈ blockCells dest stride x y ↔ ∃ du < 2, ∃ dv < 2, c = dstCell dest stride (2 * x + du) (2 * y + dv) := by
  simp only [blockCells, List.mem_cons, List.not_mem_nil, or_false]
  constructor
  · rintro (rfl | rfl | rfl | rfl)
    · exact ⟨0, by omega, 0, by omega, rfl⟩
    · exact ⟨1, by omega, 0, by omega, rfl⟩
    · exact ⟨0, by omega, 1, by omega, rfl⟩
    · exact ⟨1, by omega, 1, by omega, rfl⟩
  · rintro ⟨du, hu, dv, hv, rfl⟩
    interval_cases du <;> interval_cases dv <;> simp

/-- The blocks of two positions of a frame share no cell (44_compositor.md R197). -/
theorem blockCells_disjoint {dest : Nat} {stride : Dim} {w : Nat} {q r : Nat × Nat} (hs : 2 * w ≤ stride.toNat)
    (hq : q.1 < w) (hr : r.1 < w) {c : Nat} (h1 : c ∈ blockCells dest stride q.1 q.2)
    (h2 : c ∈ blockCells dest stride r.1 r.2) : q = r := by
  obtain ⟨du, hu, dv, hv, rfl⟩ := mem_blockCells.1 h1
  obtain ⟨du', hu', dv', hv', h⟩ := mem_blockCells.1 h2
  obtain ⟨ha, hb⟩ := dstCell_inj hs (by omega) (by omega) h
  ext <;> omega

/-- The block of a position of the frame lies in the destination's extent. -/
theorem blockCells_extent {o : RenderOperands} {x y c : Nat} (hx : x < o.sourceW.toNat) (hy : y < o.sourceH.toNat)
    (h : c ∈ blockCells o.dest o.dstStride x y) : ∃ k < dstExtent o, c = o.dest + k := by
  obtain ⟨du, hu, dv, hv, rfl⟩ := mem_blockCells.1 h
  refine ⟨(2 * y + dv) * o.dstStride.toNat + (2 * x + du), ?_, rfl⟩
  unfold dstExtent
  rw [if_neg (by omega)]
  have : (2 * y + dv) * o.dstStride.toNat ≤ (2 * o.sourceH.toNat - 1) * o.dstStride.toNat :=
    Nat.mul_le_mul_right _ (by omega)
  omega

/-- The cell of a source position lies in the source's extent. -/
theorem srcCell_extent {o : RenderOperands} {x y : Nat} (hx : x < o.sourceW.toNat) (hy : y < o.sourceH.toNat) :
    ∃ k < srcExtent o, srcCell o x y = o.source + k := by
  refine ⟨y * o.srcStride.toNat + x, ?_, rfl⟩
  unfold srcExtent
  rw [if_neg (by omega)]
  have : y * o.srcStride.toNat ≤ (o.sourceH.toNat - 1) * o.srcStride.toNat := Nat.mul_le_mul_right _ (by omega)
  omega

theorem holds_srcCell {o : RenderOperands} {m : Memory} (h : SourceDuties o m) {x y : Nat} (hx : x < o.sourceW.toNat)
    (hy : y < o.sourceH.toNat) : Memory.holds m (srcCell o x y) = true := by
  obtain ⟨k, hk, he⟩ := srcCell_extent hx hy
  rw [he]; exact h.2 k hk

theorem holdsBlock_of_duties {o : RenderOperands} {m : Memory} (h : DestDuties o m) {x y : Nat}
    (hx : x < o.sourceW.toNat) (hy : y < o.sourceH.toNat) : holdsBlock m o.dest o.dstStride x y = true := by
  rw [holdsBlock_iff]
  intro c hc
  obtain ⟨k, hk, rfl⟩ := blockCells_extent hx hy hc
  exact h.2.1 k hk

/-- A source cell lies in no block (20_memory.md R52, duty 3). -/
theorem srcCell_not_mem_block {o : RenderOperands} {m : Memory} (h : DestDuties o m) {x y x' y' : Nat}
    (hx : x < o.sourceW.toNat) (hy : y < o.sourceH.toNat) (hx' : x' < o.sourceW.toNat) (hy' : y' < o.sourceH.toNat) :
    srcCell o x y ∉ blockCells o.dest o.dstStride x' y' := by
  intro hc
  obtain ⟨du, hu, dv, hv, he⟩ := mem_blockCells.1 hc
  exact h.2.2 x hx y hy _ (by omega) _ (by omega) he

/-! ### What a pass over a list of positions does to DST -/

/-- DST after the blocks of the positions `qs` are written: each block shows `val` of its position, every byte outside
the blocks is as before, and no address is added or taken away. -/
structure Drawn (o : RenderOperands) (qs : List (Nat × Nat)) (val : Nat × Nat → Option Pixel) (m m' : Memory) :
    Prop where
  shows : ∀ q ∈ qs, ∀ c ∈ blockCells o.dest o.dstStride q.1 q.2, Memory.readPixel m' c = val q
  other : ∀ a, (∀ q ∈ qs, ∀ c ∈ blockCells o.dest o.dstStride q.1 q.2, a ≠ 2 * c ∧ a ≠ 2 * c + 1) →
    Memory.read m' a = Memory.read m a
  same : ∀ a, (Memory.read m' a).isSome = (Memory.read m a).isSome

/-- A pixel outside the blocks is as before. -/
theorem Drawn.readPixel_other {o : RenderOperands} {qs : List (Nat × Nat)} {val : Nat × Nat → Option Pixel}
    {m m' : Memory} (h : Drawn o qs val m m') {d : Nat}
    (hd : ∀ q ∈ qs, d ∉ blockCells o.dest o.dstStride q.1 q.2) : Memory.readPixel m' d = Memory.readPixel m d := by
  have key : ∀ e < 2, Memory.read m' (2 * d + e) = Memory.read m (2 * d + e) := by
    intro e he
    refine h.other _ fun q hq c hc => ?_
    have : d ≠ c := fun hdc => hd q hq (hdc ▸ hc)
    omega
  have k0 := key 0 (by omega); have k1 := key 1 (by omega)
  unfold Memory.readPixel
  rw [show 2 * d = 2 * d + 0 from rfl, k0, k1]

/-- Cells that are held stay held. -/
theorem Drawn.holds {o : RenderOperands} {qs : List (Nat × Nat)} {val : Nat × Nat → Option Pixel}
    {m m' : Memory} (h : Drawn o qs val m m') (c : Nat) : Memory.holds m' c = Memory.holds m c := by
  have e : ∀ m : Memory, Memory.holds m c = ((Memory.read m (2 * c)).isSome && (Memory.read m (2 * c + 1)).isSome) := by
    intro m; unfold Memory.holds Memory.readPixel
    cases Memory.read m (2 * c) <;> cases Memory.read m (2 * c + 1) <;> rfl
  rw [e, e, h.same, h.same]

/-- One block more, written before the others. -/
theorem Drawn.cons {o : RenderOperands} {q : Nat × Nat} {qs : List (Nat × Nat)} {val : Nat × Nat → Option Pixel}
    {v : Pixel} {m m' : Memory} (hh : holdsBlock m o.dest o.dstStride q.1 q.2 = true) (hv : val q = some v)
    (hd : ∀ r ∈ qs, ∀ c ∈ blockCells o.dest o.dstStride r.1 r.2, c ∉ blockCells o.dest o.dstStride q.1 q.2)
    (h : Drawn o qs val (writeBlock m o.dest o.dstStride q.1 q.2 v) m') : Drawn o (q :: qs) val m m' := by
  refine ⟨?_, ?_, ?_⟩
  · intro r hr c hc
    rcases List.mem_cons.1 hr with rfl | hr
    · rw [h.readPixel_other fun r' hr' hc' => hd r' hr' c hc' hc, readPixel_writeBlock, if_pos hc, hv]
    · exact h.shows r hr c hc
  · intro a ha
    rw [h.other a fun r hr => ha r (List.mem_cons_of_mem _ hr), read_writeBlock_other _ _ _ _ _ _
      (ha q List.mem_cons_self)]
  · intro a; rw [h.same, read_isSome_writeBlock hh]

/-- The seed pass over a list of distinct positions of the frame: it completes, shows each source pixel in its block,
and changes nothing but host memory and the cursor (44_compositor.md R194). -/
theorem forEach_seedPosition {o : RenderOperands} {qs : List (Nat × Nat)} {s : State} (hn : qs.Nodup)
    (hq : ∀ q ∈ qs, q.1 < o.sourceW.toNat ∧ q.2 < o.sourceH.toNat) (hs : SourceDuties o s.mem)
    (hd : DestDuties o s.mem) :
    ∃ t, forEach (seedPosition o) qs s = .next t ∧ t = { s with x := t.x, y := t.y, mem := t.mem } ∧
      Drawn o qs (fun q => Memory.readPixel s.mem (srcCell o q.1 q.2)) s.mem t.mem := by
  induction qs generalizing s with
  | nil => exact ⟨s, rfl, rfl, ⟨by simp, by simp, by simp⟩⟩
  | cons q qs ih =>
    obtain ⟨hx, hy⟩ := hq q List.mem_cons_self
    obtain ⟨v, hv⟩ := (Memory.holds_iff _ _).1 (holds_srcCell hs hx hy)
    have hb := holdsBlock_of_duties hd hx hy
    have hkeep : ∀ c, (Memory.readPixel s.mem c).isSome = true →
        (Memory.readPixel (writeBlock s.mem o.dest o.dstStride q.1 q.2 v) c).isSome = true :=
      fun c hc => holds_writeBlock (m := s.mem) hc _ _ _ _ _
    obtain ⟨t, ht, hf, hw⟩ := ih (s := (s.setCursor q.1 q.2).setMem (writeBlock s.mem o.dest o.dstStride q.1 q.2 v))
      (List.nodup_cons.1 hn).2 (fun r hr => hq r (List.mem_cons_of_mem _ hr))
      ⟨hs.1, fun k hk => hkeep _ (hs.2 k hk)⟩ ⟨hd.1, fun k hk => hkeep _ (hd.2.1 k hk), hd.2.2⟩
    refine ⟨t, ?_, ?_, ?_⟩
    · rw [forEach_cons, andThen_next]
      exact ⟨_, seedPosition_next.2 ⟨v, hv, hb, rfl⟩, ht⟩
    · rw [hf]; rfl
    · refine Drawn.cons hb hv (fun r hr c hc hc' => ?_) ?_
      · have he := blockCells_disjoint hd.1 (hq r (List.mem_cons_of_mem _ hr)).1 hx hc hc'
        exact (List.nodup_cons.1 hn).1 (he ▸ hr)
      · have hsame : ∀ r ∈ qs, Memory.readPixel s.mem (srcCell o r.1 r.2)
            = Memory.readPixel (writeBlock s.mem o.dest o.dstStride q.1 q.2 v) (srcCell o r.1 r.2) := by
          intro r hr
          obtain ⟨hrx, hry⟩ := hq r (List.mem_cons_of_mem _ hr)
          rw [readPixel_writeBlock, if_neg (srcCell_not_mem_block hd hrx hry hx hy)]
        refine ⟨fun r hr c hc => ?_, hw.other, hw.same⟩
        rw [hw.shows r hr c hc]; exact (hsame r hr).symm

/-! ### Source frames -/

theorem readCells_eq {m : Memory} {cs : List Nat} (h : ∀ c ∈ cs, Memory.holds m c = true) :
    ∃ vs, readCells m cs = some vs ∧ vs.map some = cs.map (Memory.readPixel m) := by
  induction cs with
  | nil => exact ⟨[], rfl, rfl⟩
  | cons c cs ih =>
    obtain ⟨vs, h1, h2⟩ := ih fun c hc => h c (List.mem_cons_of_mem _ hc)
    obtain ⟨v, hv⟩ := (Memory.holds_iff _ _).1 (h c List.mem_cons_self)
    exact ⟨v :: vs, by simp [readCells, hv, h1], by simp [hv, h2]⟩

theorem positions_length (w h : Nat) : (positions w h).length = w * h := by
  simp [positions, List.length_flatMap, Nat.mul_comm]

theorem positions_succ (w h : Nat) :
    positions w (h + 1) = positions w h ++ (List.range w).map fun x => (x, h) := by
  simp [positions, List.range_succ]

/-- Position `(x, y)` is number `y * w + x` in row-major order. -/
theorem positions_getElem (w h x y : Nat) (hx : x < w) (hy : y < h) : (positions w h)[y * w + x]? = some (x, y) := by
  induction h with
  | zero => omega
  | succ h ih =>
    have hlen := positions_length w h
    rw [positions_succ]
    rcases Nat.lt_or_ge y h with h1 | h1
    · have hlt : y * w + x < w * h := by
        calc y * w + x < y * w + w := by omega
          _ = (y + 1) * w := by ring
          _ ≤ h * w := Nat.mul_le_mul_right _ h1
          _ = w * h := Nat.mul_comm _ _
      rw [List.getElem?_append_left (by omega), ih h1]
    · have : y = h := by omega
      subst this
      rw [List.getElem?_append_right (by rw [hlen, Nat.mul_comm w y]; omega), hlen, Nat.mul_comm w y,
        Nat.add_sub_cancel_left]
      simp [hx]

/-- The source frame, where the host meets its duties: each position's pixel in row-major order (20_memory.md R41). -/
theorem sourceFrame_eq {o : RenderOperands} {m : Memory} (h : SourceDuties o m) :
    ∃ frame, sourceFrame o m = some frame ∧ frame.length = o.sourceW.toNat * o.sourceH.toNat ∧
      ∀ x < o.sourceW.toNat, ∀ y < o.sourceH.toNat,
        frame[y * o.sourceW.toNat + x]? = Memory.readPixel m (srcCell o x y) := by
  obtain ⟨vs, h1, h2⟩ := readCells_eq (m := m)
    (cs := (positions o.sourceW.toNat o.sourceH.toNat).map fun q => srcCell o q.1 q.2) (by
      intro c hc
      obtain ⟨q, hq, rfl⟩ := List.mem_map.1 hc
      exact holds_srcCell h (mem_positions.1 hq).1 (mem_positions.1 hq).2)
  refine ⟨vs, h1, ?_, fun x hx y hy => ?_⟩
  · have := congrArg List.length h2
    simpa [positions_length] using this
  · have := congrArg (fun l => l[y * o.sourceW.toNat + x]?) h2
    simp only [List.getElem?_map, positions_getElem _ _ x y hx hy, Option.map_some] at this
    cases hv : vs[y * o.sourceW.toNat + x]? with
    | none => rw [hv] at this; cases this
    | some v => rw [hv] at this; simpa using this

/-- Every slot of a freshly seeded store holds the frame (42_history_store.md R153). -/
theorem seeded_getElem (frame : List Pixel) (a k : Nat) (ha : a < 5) (hk : k < frame.length) :
    (frame ++ frame ++ frame ++ frame ++ frame)[a * frame.length + k]? = frame[k]? := by
  have hrep : frame ++ frame ++ frame ++ frame ++ frame = (List.replicate 5 frame).flatten := by
    simp [List.replicate]
  rw [hrep]
  generalize 5 = n at ha
  induction n generalizing a with
  | zero => omega
  | succ n ih =>
    rw [List.replicate_succ, List.flatten_cons]
    cases a with
    | zero => rw [List.getElem?_append_left (by omega)]; simp
    | succ a =>
      rw [List.getElem?_append_right (by rw [Nat.add_mul]; omega), ← ih a (by omega)]
      congr 1; rw [Nat.add_mul]; omega

/-! ### What the blend pass does -/

/-- HIST after the positions `qs` were pushed: each position's source pixel in the slot of age 5, every other cell as
before (42_history_store.md R154). -/
structure Pushed (o : RenderOperands) (qs : List (Nat × Nat)) (s t : State) : Prop where
  at_position : ∀ q ∈ qs, t.hist[s.pushCell q.1 q.2]? = Memory.readPixel s.mem (srcCell o q.1 q.2)
  other : ∀ k, (∀ q ∈ qs, k ≠ s.pushCell q.1 q.2) → t.hist[k]? = s.hist[k]?
  length : t.hist.length = s.hist.length

/-- What PIXEL answers at a position of the blend pass, from the state before the pass. -/
def blendValue (o : RenderOperands) (s : State) (q : Nat × Nat) : Option Pixel :=
  match Memory.readPixel s.mem (srcCell o q.1 q.2) with
  | some p0 =>
    match s.samplesAt p0 q.1 q.2 with
    | some ps => pixelOut s.mode s.fullbright s.motionCheck s.lut ps
    | none => none
  | none => none

/-- Where a position of the grid has its six pixels, they are those of the source and of the five ages. -/
theorem samplesAt_exists {s : State} (hl : s.hist.length = 5 * (s.lastW.toNat * s.lastH.toNat)) (p0 : Pixel)
    {x y : Nat} (hx : x < s.lastW.toNat) (hy : y < s.lastH.toNat) : ∃ ps, s.samplesAt p0 x y = some ps := by
  have h : ∀ age, ∃ v, s.histAt age x y = some v := by
    intro age
    have := State.histCell_lt (s := s) (slotOf_lt s.base age) hx hy
    exact ⟨_, List.getElem?_eq_getElem (by omega)⟩
  obtain ⟨p1, h1⟩ := h 1
  obtain ⟨p2, h2⟩ := h 2
  obtain ⟨p3, h3⟩ := h 3
  obtain ⟨p4, h4⟩ := h 4
  obtain ⟨p5, h5⟩ := h 5
  exact ⟨⟨p0, p1, p2, p3, p4, p5⟩, samplesAt_eq.2 ⟨rfl, h1, h2, h3, h4, h5⟩⟩

/-- The state after one position of the blend pass: latches, `OUT`, block and push. -/
def State.blended (s : State) (o : RenderOperands) (q : Nat × Nat) (ps : Samples) (v : Pixel) : State :=
  { s with
    p := ps
    out := v
    x := BitVec.ofNat 16 q.1
    y := BitVec.ofNat 16 q.2
    mem := writeBlock s.mem o.dest o.dstStride q.1 q.2 v
    hist := s.hist.set (s.pushCell q.1 q.2) ps.p0 }

/-- One position of the blend pass completes where the host and the store hold what it needs (44_compositor.md R196). -/
theorem blendPosition_completes {o : RenderOperands} {q : Nat × Nat} {s : State} (hs : SourceDuties o s.mem)
    (hd : DestDuties o s.mem) (hseed : s.seeded = true) (hmode : s.mode ≠ 3) (hw : s.lastW = o.sourceW)
    (hh : s.lastH = o.sourceH) (hl : s.hist.length = 5 * (s.lastW.toNat * s.lastH.toNat))
    (hx : q.1 < o.sourceW.toNat) (hy : q.2 < o.sourceH.toNat) :
    ∃ ps v, blendPosition o q s = .next (s.blended o q ps v) ∧ blendValue o s q = some v ∧
      Memory.readPixel s.mem (srcCell o q.1 q.2) = some ps.p0 ∧ s.pushCell q.1 q.2 < s.hist.length ∧
      holdsBlock s.mem o.dest o.dstStride q.1 q.2 = true := by
  have hx' : q.1 < s.lastW.toNat := by rw [hw]; exact hx
  have hy' : q.2 < s.lastH.toNat := by rw [hh]; exact hy
  obtain ⟨p0, hp0⟩ := (Memory.holds_iff _ _).1 (holds_srcCell hs hx hy)
  obtain ⟨ps, hps⟩ := samplesAt_exists hl p0 hx' hy'
  obtain ⟨v, hv⟩ := pixelOut_isSome hmode s.fullbright s.motionCheck s.lut ps
  have hb := holdsBlock_of_duties hd hx hy
  have hps0 : ps.p0 = p0 := (samplesAt_eq.1 hps).1
  have hcell : s.pushCell q.1 q.2 < s.hist.length := by
    rw [hl]; exact State.histCell_lt (pushSlot_lt _) hx' hy'
  refine ⟨ps, v, blendPosition_next.2 ⟨p0, ps, v, hp0, hps, hv, hb, ?_⟩, ?_, ?_, hcell, hb⟩
  · have hc : ((((s.setCursor q.1 q.2).setLatches ps).setOut v).setMem
        (writeBlock s.mem o.dest o.dstStride q.1 q.2 v)).pushCell q.1 q.2 = s.pushCell q.1 q.2 := by
      simp only [State.pushCell, State.histCell, State.slotSize, State.setCursor, State.setLatches, State.setOut,
        State.setMem]
    rw [pushPixel_next, hc]
    simp only [State.setCursor, State.setLatches, State.setOut, State.setMem, State.setHist, State.blended]
    exact ⟨hseed, hx', hy', hcell, trivial⟩
  · simp only [blendValue, hp0, hps, hv]
  · rw [hp0, hps0]

/-- A position already blended leaves another position's samples and source pixel alone. -/
theorem blendValue_blended {o : RenderOperands} {q r : Nat × Nat} {s : State} {ps : Samples} {v : Pixel}
    (hd : DestDuties o s.mem) (hw : s.lastW = o.sourceW) (hh : s.lastH = o.sourceH)
    (hx : q.1 < o.sourceW.toNat) (hy : q.2 < o.sourceH.toNat) (hrx : r.1 < o.sourceW.toNat)
    (hry : r.2 < o.sourceH.toNat) (hne : r ≠ q) :
    Memory.readPixel (s.blended o q ps v).mem (srcCell o r.1 r.2) = Memory.readPixel s.mem (srcCell o r.1 r.2) ∧
      blendValue o (s.blended o q ps v) r = blendValue o s r := by
  have hm : Memory.readPixel (s.blended o q ps v).mem (srcCell o r.1 r.2)
      = Memory.readPixel s.mem (srcCell o r.1 r.2) := by
    simp only [State.blended, readPixel_writeBlock, if_neg (srcCell_not_mem_block hd hrx hry hx hy)]
  have hhist : ∀ age, (s.blended o q ps v).histAt age r.1 r.2 = s.histAt age r.1 r.2 := by
    intro age
    refine List.getElem?_set_ne fun he => hne ?_
    obtain ⟨-, h1, h2⟩ := State.histCell_inj (s := s) (by rw [hw]; exact hx) (by rw [hw]; exact hrx)
      (by rw [hh]; exact hy) (by rw [hh]; exact hry) he
    exact Prod.ext h1.symm h2.symm
  refine ⟨hm, ?_⟩
  unfold blendValue State.samplesAt
  simp only [hm, hhist]
  rfl

/-- One push more, made before the others. -/
theorem Pushed.cons {o : RenderOperands} {q : Nat × Nat} {qs : List (Nat × Nat)} {s t : State} {ps : Samples}
    {v : Pixel} (hsrc : Memory.readPixel s.mem (srcCell o q.1 q.2) = some ps.p0)
    (hcell : s.pushCell q.1 q.2 < s.hist.length)
    (hread : ∀ r ∈ qs, Memory.readPixel (s.blended o q ps v).mem (srcCell o r.1 r.2)
      = Memory.readPixel s.mem (srcCell o r.1 r.2))
    (hne : ∀ r ∈ qs, s.pushCell q.1 q.2 ≠ s.pushCell r.1 r.2) (h : Pushed o qs (s.blended o q ps v) t) :
    Pushed o (q :: qs) s t := by
  refine ⟨fun r hr => ?_, fun k hk => ?_, ?_⟩
  · rcases List.mem_cons.1 hr with rfl | hr
    · have := h.other (s.pushCell r.1 r.2) hne
      rw [this, hsrc]
      exact List.getElem?_set_self hcell
    · exact (h.at_position r hr).trans (hread r hr)
  · have := h.other k fun r hr => hk r (List.mem_cons_of_mem _ hr)
    rw [this]
    exact List.getElem?_set_ne (hk q List.mem_cons_self).symm
  · exact h.length.trans List.length_set

/-- The blend pass over a list of distinct positions of the frame: it completes, shows in each block what PIXEL answers
from the state before the pass, pushes each source pixel, and changes nothing else but the latches, `OUT` and the
cursor (44_compositor.md R196). -/
theorem forEach_blendPosition {o : RenderOperands} {qs : List (Nat × Nat)} {s : State} (hn : qs.Nodup)
    (hq : ∀ q ∈ qs, q.1 < o.sourceW.toNat ∧ q.2 < o.sourceH.toNat) (hs : SourceDuties o s.mem)
    (hd : DestDuties o s.mem) (hseed : s.seeded = true) (hmode : s.mode ≠ 3) (hw : s.lastW = o.sourceW)
    (hh : s.lastH = o.sourceH) (hl : s.hist.length = 5 * (s.lastW.toNat * s.lastH.toNat)) :
    ∃ t, forEach (blendPosition o) qs s = .next t ∧
      t = { s with hist := t.hist, p := t.p, out := t.out, x := t.x, y := t.y, mem := t.mem } ∧
      Drawn o qs (blendValue o s) s.mem t.mem ∧ Pushed o qs s t ∧ ∀ q ∈ qs, (blendValue o s q).isSome = true := by
  induction qs generalizing s with
  | nil => exact ⟨s, rfl, rfl, ⟨by simp, by simp, by simp⟩, ⟨by simp, by simp, rfl⟩, by simp⟩
  | cons q qs ih =>
    obtain ⟨hx, hy⟩ := hq q List.mem_cons_self
    have hqs := fun r hr => hq r (List.mem_cons_of_mem _ hr)
    obtain ⟨ps, v, hu, hv, hsrc, hcell, hb⟩ := blendPosition_completes hs hd hseed hmode hw hh hl hx hy
    have hne : ∀ r ∈ qs, r ≠ q := fun r hr he => (List.nodup_cons.1 hn).1 (he ▸ hr)
    have hval := fun r hr => blendValue_blended (s := s) (ps := ps) (v := v) hd hw hh hx hy (hqs r hr).1 (hqs r hr).2
      (hne r hr)
    have hkeep : ∀ c, (Memory.readPixel s.mem c).isSome = true →
        (Memory.readPixel (s.blended o q ps v).mem c).isSome = true :=
      fun c hc => holds_writeBlock (m := s.mem) hc o.dest o.dstStride q.1 q.2 v
    obtain ⟨t, ht, hf, hdr, hp, hi⟩ := ih (s := s.blended o q ps v) (List.nodup_cons.1 hn).2 hqs
      ⟨hs.1, fun k hk => hkeep _ (hs.2 k hk)⟩ ⟨hd.1, fun k hk => hkeep _ (hd.2.1 k hk), hd.2.2⟩ hseed hmode hw hh
      (List.length_set.trans hl)
    refine ⟨t, ?_, ?_, ?_, ?_, ?_⟩
    · rw [forEach_cons, hu]; exact ht
    · rw [hf]; rfl
    · refine Drawn.cons hb hv (fun r hr c hc hc' => ?_) ?_
      · exact hne r hr (blockCells_disjoint hd.1 (hqs r hr).1 hx hc hc')
      · refine ⟨fun r hr c hc => ?_, hdr.other, hdr.same⟩
        rw [hdr.shows r hr c hc, (hval r hr).2]
    · refine Pushed.cons hsrc hcell (fun r hr => (hval r hr).1) (fun r hr he => hne r hr ?_) hp
      obtain ⟨-, h1, h2⟩ := State.histCell_inj (s := s) (by rw [hw]; exact hx) (by rw [hw]; exact (hqs r hr).1)
        (by rw [hh]; exact hy) (by rw [hh]; exact (hqs r hr).2) he
      exact Prod.ext h1.symm h2.symm
    · intro r hr
      rcases List.mem_cons.1 hr with rfl | hr
      · rw [hv]; rfl
      · rw [← (hval r hr).2]; exact hi r hr

end Sys2Proof.Machine
end

