-- ==== Sys2Proof/Laws/PerInstr.lean ====
section
/-! SUPPORT. A family of statements about each instruction as syntax: its code is one of the operation map, and encoding
then decoding gives it back. -/

namespace Sys2Proof.Laws

/-- The operation classes by their high nibble, with the highest code in use in each (30_encoding.md R82). -/
def inOperationMap (op : Nat) : Bool :=
  decide (op ≤ 0x04) || (decide (0x10 ≤ op) && decide (op ≤ 0x15)) || (decide (0x20 ≤ op) && decide (op ≤ 0x24)) ||
    (decide (0x30 ≤ op) && decide (op ≤ 0x3A)) || (decide (0x40 ≤ op) && decide (op ≤ 0x42))

/-- The instruction's code is in the operation map and its command decodes to it. -/
def CodeInTable.Statement (i : Instr) : Prop :=
  inOperationMap (encode i).op.toNat = true ∧ decode (encode i) = .ok i

theorem CodeInTable.construct (cfg : Cfg) : CodeInTable.Statement (.construct cfg) := ⟨rfl, rfl⟩
theorem CodeInTable.reload (cfg : Cfg) : CodeInTable.Statement (.reload cfg) := ⟨rfl, rfl⟩
theorem CodeInTable.toggle : CodeInTable.Statement .toggle := ⟨rfl, rfl⟩
theorem CodeInTable.status : CodeInTable.Statement .status := ⟨rfl, rfl⟩
theorem CodeInTable.render (o : RenderOperands) : CodeInTable.Statement (.render o) := ⟨rfl, rfl⟩
theorem CodeInTable.build (gamma ratio : Rat) : CodeInTable.Statement (.build gamma ratio) := ⟨rfl, rfl⟩
theorem CodeInTable.clampg (gamma : Rat) : CodeInTable.Statement (.clampg gamma) := ⟨rfl, rfl⟩
theorem CodeInTable.clampr (ratio : Rat) : CodeInTable.Statement (.clampr ratio) := ⟨rfl, rfl⟩
theorem CodeInTable.fwdent (i : ChannelValue) (g : Gamma) : CodeInTable.Statement (.fwdent i g) := ⟨rfl, rfl⟩
theorem CodeInTable.revent (i : ChannelValue) (g : Gamma) : CodeInTable.Statement (.revent i g) := ⟨rfl, rfl⟩
theorem CodeInTable.blendent (e : BlendEntry) (r : Ratio) : CodeInTable.Statement (.blendent e r) := ⟨rfl, rfl⟩
theorem CodeInTable.resize (w h : Dim) : CodeInTable.Statement (.resize w h) := ⟨rfl, rfl⟩
theorem CodeInTable.seed (frame : List Pixel) : CodeInTable.Statement (.seed frame) := ⟨rfl, rfl⟩
theorem CodeInTable.pushpx (x y : Dim) (p : Pixel) : CodeInTable.Statement (.pushpx x y p) := ⟨rfl, rfl⟩
theorem CodeInTable.advance : CodeInTable.Statement .advance := ⟨rfl, rfl⟩
theorem CodeInTable.atAge (age : Nat) : CodeInTable.Statement (.atAge age) := ⟨rfl, rfl⟩
theorem CodeInTable.unpack (p : Pixel) : CodeInTable.Statement (.unpack p) := ⟨rfl, rfl⟩
theorem CodeInTable.pack (r : BitVec 5) (g : BitVec 6) (b : BitVec 5) : CodeInTable.Statement (.pack r g b) := ⟨rfl, rfl⟩
theorem CodeInTable.blend2 (p q : Pixel) : CodeInTable.Statement (.blend2 p q) := ⟨rfl, rfl⟩
theorem CodeInTable.blend3 (a b c : Pixel) : CodeInTable.Statement (.blend3 a b c) := ⟨rfl, rfl⟩
theorem CodeInTable.or3 (a b c : Pixel) : CodeInTable.Statement (.or3 a b c) := ⟨rfl, rfl⟩
theorem CodeInTable.pure (p : Pixel) : CodeInTable.Statement (.pure p) := ⟨rfl, rfl⟩
theorem CodeInTable.elig3 (ps : Samples) : CodeInTable.Statement (.elig3 ps) := ⟨rfl, rfl⟩
theorem CodeInTable.alt2 (a b c : Pixel) : CodeInTable.Statement (.alt2 a b c) := ⟨rfl, rfl⟩
theorem CodeInTable.twopath (a b c : Pixel) : CodeInTable.Statement (.twopath a b c) := ⟨rfl, rfl⟩
theorem CodeInTable.triout (a b c : Pixel) : CodeInTable.Statement (.triout a b c) := ⟨rfl, rfl⟩
theorem CodeInTable.pixel (ps : Samples) : CodeInTable.Statement (.pixel ps) := ⟨rfl, rfl⟩
theorem CodeInTable.replpx (d : Nat) (st x y : Dim) (v : Pixel) : CodeInTable.Statement (.replpx d st x y v) := ⟨rfl, rfl⟩
theorem CodeInTable.seedpass (o : RenderOperands) : CodeInTable.Statement (.seedpass o) := ⟨rfl, rfl⟩
theorem CodeInTable.blendpass (o : RenderOperands) : CodeInTable.Statement (.blendpass o) := ⟨rfl, rfl⟩

end Sys2Proof.Laws
end

