-- ==== Sys2Proof/Laws/Tables.lean ====
section
/-! SUPPORT. The LUT Manager's arithmetic: the clamps, rounding, the exact comparison of a real power, and reads of a
tabulated table. -/

namespace Sys2Proof.Machine

/-! ### Clamps -/

theorem clampGamma_val (q : Rat) : (clampGamma q).val = max q 1 := by
  unfold clampGamma; split_ifs with h
  · exact (max_eq_left h).symm
  · exact (max_eq_right (le_of_not_ge h)).symm

theorem clampRatio_val (q : Rat) : (clampRatio q).val = min (max q (1 / 2)) 1 := by
  unfold clampRatio; split_ifs with h1 h2
  · rw [max_eq_left h1, min_eq_left h2]
  · rw [max_eq_left h1, min_eq_right (le_of_not_ge h2)]
  · rw [max_eq_right (le_of_not_ge h1), min_eq_left (by norm_num)]

theorem gamma_val_pos (g : Gamma) : 0 < g.val := lt_of_lt_of_le one_pos g.floor

theorem gamma_num_pos (g : Gamma) : 0 < g.val.num := Rat.num_pos.2 (gamma_val_pos g)

/-- A gamma is its numerator over its denominator. -/
theorem gamma_val_eq_div (g : Gamma) : ((g.val : Rat) : ℝ) = (g.val.num.toNat : ℝ) / (g.val.den : ℝ) := by
  have h : (g.val.num.toNat : ℤ) = g.val.num := Int.toNat_of_nonneg (gamma_num_pos g).le
  rw [Rat.cast_def]; congr 1
  exact_mod_cast h.symm

/-! ### The exact comparison of a power -/

/-- `atMostPow` decides `t <= b ^ (p / q)` over the real numbers (log 1). -/
theorem atMostPow_iff {t b : Rat} (ht : 0 < t) (hb : 0 < b) (p : Nat) {q : Nat} (hq : 0 < q) :
    atMostPow t b p q = true ↔ (t : ℝ) ≤ (b : ℝ) ^ ((p : ℝ) / (q : ℝ)) := by
  have ht' : (0 : ℝ) ≤ (t : ℝ) := by exact_mod_cast ht.le
  have hb' : (0 : ℝ) ≤ (b : ℝ) := by exact_mod_cast hb.le
  have hx : (0 : ℝ) ≤ (b : ℝ) ^ ((p : ℝ) / (q : ℝ)) := Real.rpow_nonneg hb' _
  have hpow : ((b : ℝ) ^ ((p : ℝ) / (q : ℝ))) ^ q = (b : ℝ) ^ p := by
    rw [← Real.rpow_natCast, ← Real.rpow_mul hb', div_mul_cancel₀, Real.rpow_natCast]
    exact_mod_cast hq.ne'
  unfold atMostPow
  rw [decide_eq_true_iff, ← pow_le_pow_iff_left₀ ht' hx hq.ne', hpow]
  exact_mod_cast Iff.rfl

/-! ### Rounding -/

theorem roundClamped_le (r : Nat → Bool) (m : Nat) : roundClamped r m ≤ m := by
  induction m with
  | zero => simp [roundClamped]
  | succ m ih => unfold roundClamped; split_ifs <;> omega

/-- What rounding reaches, if it is not 0. -/
theorem roundClamped_reaches (r : Nat → Bool) (m : Nat) (h : roundClamped r m ≠ 0) :
    r (roundClamped r m) = true := by
  induction m with
  | zero => simp [roundClamped] at h
  | succ m ih =>
    rw [roundClamped] at h ⊢; split_ifs at h ⊢ with h1
    · exact h1
    · exact ih h

/-- Everything above the rounded value, up to the bound, is out of reach. -/
theorem roundClamped_above (r : Nat → Bool) (m k : Nat) (h1 : roundClamped r m < k) (h2 : k ≤ m) : r k = false := by
  induction m with
  | zero => omega
  | succ m ih =>
    unfold roundClamped at h1; split_ifs at h1 with h
    · omega
    · rcases Nat.lt_or_ge k (m + 1) with hk | hk
      · exact ih h1 (by omega)
      · have : k = m + 1 := by omega
        subst this; simpa using h

/-- The rounded value is monotone in what is reached. -/
theorem roundClamped_mono {r r' : Nat → Bool} (m : Nat) (h : ∀ k, 1 ≤ k → r k = true → r' k = true) :
    roundClamped r m ≤ roundClamped r' m := by
  induction m with
  | zero => simp [roundClamped]
  | succ m ih =>
    unfold roundClamped; split_ifs with h1 h2 h2
    · exact le_refl _
    · exact absurd (h _ (by omega) h1) h2
    · exact (roundClamped_le r m).trans (by omega)
    · exact ih

/-- `roundClamped` is `RND(clamp(v, 0, m))` of the real `v` whose comparisons it is given (40_lut_builder.md R103). -/
theorem roundClamped_eq_floor {r : Nat → Bool} {v : ℝ} (m : Nat)
    (h : ∀ k, 1 ≤ k → k ≤ m → (r k = true ↔ (k : ℝ) - 1 / 2 ≤ v)) :
    (roundClamped r m : ℤ) = ⌊min (max v 0) (m : ℝ) + 1 / 2⌋ := by
  symm
  rw [Int.floor_eq_iff]
  have hle := roundClamped_le r m
  set k := roundClamped r m with hk
  have hkm : (k : ℝ) ≤ m := by exact_mod_cast hle
  refine ⟨?_, ?_⟩
  · have : (k : ℝ) - 1 / 2 ≤ min (max v 0) m := by
      refine le_min ?_ (by linarith)
      rcases Nat.eq_zero_or_pos k with h0 | h0
      · have : (0 : ℝ) ≤ max v 0 := le_max_right _ _
        rw [h0]; push_cast; linarith
      · have hr : r k = true := by rw [hk]; exact roundClamped_reaches r m (by omega)
        exact ((h k h0 hle).1 hr).trans (le_max_left _ _)
    push_cast; linarith
  · rcases Nat.lt_or_ge k m with hlt | hge
    · have hr : r (k + 1) = false := roundClamped_above r m (k + 1) (by omega) (by omega)
      have hv : ¬ (((k + 1 : ℕ) : ℝ) - 1 / 2 ≤ v) := fun hc => by
        have := (h (k + 1) (by omega) (by omega)).2 hc
        simp_all
      push_cast at hv ⊢
      have hv' : v < (k : ℝ) + 1 / 2 := by linarith [not_le.1 hv]
      have h0 : (0 : ℝ) < (k : ℝ) + 1 / 2 := by positivity
      have : min (max v 0) (m : ℝ) < (k : ℝ) + 1 / 2 := lt_of_le_of_lt (min_le_left _ _) (max_lt hv' h0)
      linarith
    · have : k = m := by omega
      rw [this]; push_cast
      have : min (max v 0) (m : ℝ) ≤ m := min_le_right _ _
      linarith

/-! ### Entries stay in the table -/

theorem forwardEntry_lt (n i : Nat) (g : Gamma) : forwardEntry n i g < 2 ^ n := by
  have h1 := roundClamped_le (forwardReaches n i g) (dimPred n)
  have h2 : 0 < 2 ^ n := by positivity
  unfold forwardEntry dimPred at *; omega

theorem reverseEntry_lt (n i : Nat) (g : Gamma) : reverseEntry n i g < 2 ^ n := by
  have h1 := roundClamped_le (reverseReaches n i g) (dimPred n)
  have h2 : 0 < 2 ^ n := by positivity
  unfold reverseEntry dimPred at *; omega

/-! ### Reads of a tabulated table -/

theorem tabulate_getElem {α : Type} (n : Nat) (f : Nat → α) (i : Nat) (h : i < n) : (tabulate n f)[i] = f i := by
  simp [tabulate]

theorem Table.at_forwardTable (n : Nat) (g : Gamma) (i : BitVec n) :
    Table.at (forwardTable n g) i = BitVec.ofNat n (forwardEntry n i.toNat g) :=
  tabulate_getElem _ _ _ _

theorem Table.at_reverseTable (n : Nat) (g : Gamma) (i : BitVec n) :
    Table.at (reverseTable n g) i = BitVec.ofNat n (reverseEntry n i.toNat g) :=
  tabulate_getElem _ _ _ _

theorem Table.toNat_at_forwardTable (n : Nat) (g : Gamma) (i : BitVec n) :
    (Table.at (forwardTable n g) i).toNat = forwardEntry n i.toNat g := by
  rw [Table.at_forwardTable, BitVec.toNat_ofNat, Nat.mod_eq_of_lt (forwardEntry_lt n _ g)]

theorem Table.toNat_at_reverseTable (n : Nat) (g : Gamma) (i : BitVec n) :
    (Table.at (reverseTable n g) i).toNat = reverseEntry n i.toNat g := by
  rw [Table.at_reverseTable, BitVec.toNat_ofNat, Nat.mod_eq_of_lt (reverseEntry_lt n _ g)]

theorem BlendTable.at_blendTable {n : Nat} (forward reverse : Table n) (r : Ratio) (i j : BitVec n) :
    BlendTable.at (blendTable forward reverse r) i j = blendEntry forward reverse r i j := by
  have hj := j.isLt
  have h0 : 0 < 2 ^ n := by positivity
  unfold BlendTable.at blendTable
  rw [tabulate_getElem]
  congr 1
  · apply BitVec.eq_of_toNat_eq
    rw [BitVec.toNat_ofNat, Nat.add_comm, Nat.add_mul_div_right _ _ h0, Nat.div_eq_of_lt hj, Nat.zero_add,
      Nat.mod_eq_of_lt i.isLt]
  · apply BitVec.eq_of_toNat_eq
    rw [BitVec.toNat_ofNat, Nat.add_comm, Nat.add_mul_mod_self_right, Nat.mod_eq_of_lt hj]

end Sys2Proof.Machine
end

