-- ==== Sys2Proof/Tests/Slice0.lean ====
section
/-! SUPPORT. The model's own tests: refused ill-formed terms, decoding of every code, small steps with the results of the
spec's worked examples, and a witness for every statement that has hypotheses. -/

namespace Sys2Proof.Tests

set_option Elab.async false

open Sys2Proof.Machine Sys2Proof.Claims

/-! ### Helpers -/

/-- A field of the next state, if the step goes on. -/
def nextField {α : Type} (r : Step) (f : State → α) : Option α :=
  match r with
  | .next s => some (f s)
  | .fault _ => none
  | .refused _ => none

/-- The step goes on to a next state. -/
def goesOn (r : Step) : Bool := (nextField r fun _ => ()).isSome

theorem exists_of_goesOn {r : Step} (h : goesOn r = true) : ∃ t, r = .next t := by
  cases r with
  | next t => exact ⟨t, rfl⟩
  | fault e => cases h
  | refused e => cases h

/-- A render of a frame of 1 by 1 pixels: source in cell 0, destination in cells 2 to 5, capacity 2 by 2. -/
def tiny : RenderOperands := ⟨0, 1, 1, 1, 2, 2, 2, 2⟩

/-- The buffers of `tiny`: the source pixel 0xF800, a destination of zeros. -/
def tinyMem : Memory := Memory.writeRun (Memory.writeRun [] 0 [0xF800]) 2 [0, 0, 0, 0]

/-- An engine after reset, with the buffers of `tiny`. -/
def fresh : State := { State.reset with mem := tinyMem }

/-- An engine that has seen six frames of 1 by 1 pixels: ages 1 to 5 are blue, green, red, blue, green; the frame to
come is red, `RATIO`, `GAMMA` at their defaults, mode Off (so that no table is read). -/
def later : State :=
  { fresh with mode := 0, seeded := true, lastW := 1, lastH := 1, hist := [0x001F, 0x07E0, 0xF800, 0x001F, 0x07E0] }

/-- The same store one frame on, in mode Auto with FULLBRIGHT: with the red source its position is eligible. -/
def brightAuto : State :=
  { later with mode := 2, fullbright := true, hist := [0x07E0, 0x001F, 0xF800, 0x07E0, 0x001F] }

/-- An engine unseeded at 1 by 1. -/
def resized : State := { fresh with lastW := 1, lastH := 1, hist := [0, 0, 0, 0, 0] }

/-- Tables that a kernel evaluates at once: the blend entry of older `i` and newer `j`
is `i + 2 * j`, forward and reverse entries are their index. -/
def plainLut : Lut where
  forward5 := tabulate _ fun i => BitVec.ofNat 5 i
  reverse5 := tabulate _ fun i => BitVec.ofNat 5 i
  blend5 := tabulate _ fun k => BitVec.ofNat 5 (k / 32 + 2 * (k % 32))
  forward6 := tabulate _ fun i => BitVec.ofNat 6 i
  reverse6 := tabulate _ fun i => BitVec.ofNat 6 i
  blend6 := tabulate _ fun k => BitVec.ofNat 6 (k / 64 + 2 * (k % 64))

/-- An engine with the plain tables. -/
def plain : State := { State.reset with lut := plainLut }

/-- The latches of the worked example of 43_pixel_blender.md R178. -/
def triple : Samples := ⟨0x001F, 0x07E0, 0xF800, 0x001F, 0x07E0, 0xF800⟩

/-! ### WellFormed: each check refuses an ill-formed term -/

theorem test_wf_age_zero : Instr.wellFormed (.atAge 0) = false := by decide
theorem test_wf_age_six : Instr.wellFormed (.atAge 6) = false := by decide
theorem test_wf_age_ends : Instr.wellFormed (.atAge 1) = true ∧ Instr.wellFormed (.atAge 5) = true := by decide
theorem test_wf_src_stride : Instr.wellFormed (.render ⟨0, 2, 1, 1, 100, 4, 4, 2⟩) = false := by decide
theorem test_wf_dst_stride : Instr.wellFormed (.seedpass ⟨0, 2, 1, 2, 100, 3, 4, 2⟩) = false := by decide
theorem test_wf_overlap : Instr.wellFormed (.blendpass ⟨0, 2, 1, 2, 1, 4, 4, 2⟩) = false := by decide
theorem test_wf_too_small_frees_dst : Instr.wellFormed (.render ⟨0, 2, 1, 2, 1, 3, 3, 2⟩) = true := by decide
theorem test_wf_tiny : Instr.wellFormed (.render tiny) = true := by decide

/-! ### Decode: every code of 30_encoding.md R82, and reserved ones -/

/-- The instruction of a code over the given slots. -/
def decodedAt (op : BitVec 8) (a : Operands) : Option Instr :=
  match decode ⟨op, a⟩ with
  | .ok i => some i
  | .error _ => none

theorem test_decode_commands (a : Operands) :
    decodedAt 0x00 a = some (.construct a.cfg) ∧ decodedAt 0x01 a = some (.reload a.cfg) ∧ decodedAt 0x02 a = some .toggle ∧
      decodedAt 0x03 a = some .status ∧ decodedAt 0x04 a = some (.render a.render) := ⟨rfl, rfl, rfl, rfl, rfl⟩
theorem test_decode_lut_manager (a : Operands) :
    decodedAt 0x10 a = some (.build a.gamma a.ratio) ∧ decodedAt 0x11 a = some (.clampg a.gamma) ∧
      decodedAt 0x12 a = some (.clampr a.ratio) ∧ decodedAt 0x13 a = some (.fwdent a.index a.g) ∧
      decodedAt 0x14 a = some (.revent a.index a.g) ∧ decodedAt 0x15 a = some (.blendent a.entry a.r) :=
  ⟨rfl, rfl, rfl, rfl, rfl, rfl⟩
theorem test_decode_history (a : Operands) :
    decodedAt 0x20 a = some (.resize a.width a.height) ∧ decodedAt 0x21 a = some (.seed a.frame) ∧
      decodedAt 0x22 a = some (.pushpx a.x a.y a.p) ∧ decodedAt 0x23 a = some .advance ∧ decodedAt 0x24 a = some (.atAge a.age) :=
  ⟨rfl, rfl, rfl, rfl, rfl⟩
theorem test_decode_lookup (a : Operands) :
    decodedAt 0x30 a = some (.unpack a.p) ∧ decodedAt 0x31 a = some (.pack a.red a.green a.blue) ∧
      decodedAt 0x32 a = some (.blend2 a.pPrev a.pCur) ∧ decodedAt 0x33 a = some (.blend3 a.pa a.pb a.pc) ∧
      decodedAt 0x34 a = some (.or3 a.pa a.pb a.pc) := ⟨rfl, rfl, rfl, rfl, rfl⟩
theorem test_decode_blender (a : Operands) :
    decodedAt 0x35 a = some (.pure a.p) ∧ decodedAt 0x36 a = some (.elig3 a.samples) ∧
      decodedAt 0x37 a = some (.alt2 a.samples.p0 a.samples.p1 a.samples.p2) ∧
      decodedAt 0x38 a = some (.twopath a.samples.p0 a.samples.p1 a.samples.p2) ∧
      decodedAt 0x39 a = some (.triout a.samples.p0 a.samples.p1 a.samples.p2) ∧ decodedAt 0x3A a = some (.pixel a.samples) :=
  ⟨rfl, rfl, rfl, rfl, rfl, rfl⟩
theorem test_decode_compositor (a : Operands) :
    decodedAt 0x40 a = some (.replpx a.render.dest a.render.dstStride a.x a.y a.val) ∧
      decodedAt 0x41 a = some (.seedpass a.render) ∧ decodedAt 0x42 a = some (.blendpass a.render) := ⟨rfl, rfl, rfl⟩
theorem test_decode_reserved :
    decodeTableWord 8 0x05 = none ∧ decodeTableWord 8 0x16 = none ∧ decodeTableWord 8 0x25 = none ∧
      decodeTableWord 8 0x3B = none ∧ decodeTableWord 8 0x43 = none ∧ decodeTableWord 16 0x02 = none := by decide
theorem test_fetch_runs_toggle : nextField (step (State.reset.withFetchWord 8 0x02)) (·.mode) = some 0 := by decide

/-! ### Commands (worked examples of 45_mode_control.md) -/

theorem test_construct_status :
    nextField (andThen (exec (.construct ⟨.finite (4 / 5), .finite (1 / 5), 7, false, true⟩) later) (exec .status))
      (·.ret) = some (.status 2 1 (1 / 2) true) := by decide +kernel
theorem test_construct_nan :
    nextField (exec (.construct ⟨.nan, .posInf, -1, true, false⟩) later)
      (fun t => (t.gamma.val, t.ratio.val, t.mode, t.seeded, t.lastW)) = some (11 / 5, 1 / 2, 2, false, 0) := by
  decide +kernel
theorem test_reload :
    nextField (exec (.reload ⟨.finite (9 / 5), .finite (3 / 5), 1, false, true⟩) later)
      (fun t => (t.gamma.val, t.ratio.val, t.mode, t.motionCheck, t.seeded)) = some (9 / 5, 3 / 5, 1, true, true) := by
  decide +kernel
theorem test_toggle_wraps : nextField (exec .toggle State.reset) (·.mode) = some 0 := by decide
theorem test_toggle_steps : nextField (exec .toggle later) (·.mode) = some 1 := by decide
theorem test_status : nextField (exec .status State.reset) (·.ret) = some (.status 2 (11 / 5) (1 / 2) false) := by
  decide +kernel
theorem test_not_constructed :
    exec .toggle { fresh with constructed := false } = .refused .notConstructed := rfl

/-! ### RENDER and the passes -/

theorem test_render_seeds :
    nextField (exec (.render tiny) fresh)
      (fun t => (Memory.readPixel t.mem 2, Memory.readPixel t.mem 5, t.hist, t.ret)) =
      some (some 0xF800, some 0xF800, [0xF800, 0xF800, 0xF800, 0xF800, 0xF800], .size 2 2) := by decide +kernel
theorem test_render_too_small :
    nextField (exec (.render { tiny with capH := 1 }) later) (fun t => (t.ret, t.hist, t.mem)) =
      some (.size 0 0, later.hist, later.mem) := by decide +kernel
theorem test_render_pushes_raw :
    nextField (exec (.render tiny) later) (fun t => (t.base, t.hist, Memory.readPixel t.mem 3)) =
      some (4, [0x001F, 0x07E0, 0xF800, 0x001F, 0xF800], some 0xF800) := by decide +kernel
theorem test_seedpass :
    nextField (exec (.seedpass tiny) resized) (fun t => (t.seeded, Memory.readPixel t.mem 4)) = some (true, some 0xF800) := by
  decide +kernel
theorem test_blendpass_or :
    nextField (exec (.blendpass tiny) brightAuto)
      (fun t => (Memory.readPixel t.mem 2, t.base)) = some (some 0xFFFF, 4) := by decide +kernel
theorem test_replpx_cells :
    nextField (exec (.replpx 0 4 1 0 0xABCD) { State.reset with mem := Memory.writeRun [] 0 [0, 0, 0, 0, 0, 0, 0, 0] })
      (fun t => (List.range 8).map (Memory.readPixel t.mem)) =
      some [some 0, some 0, some 0xABCD, some 0xABCD, some 0, some 0, some 0xABCD, some 0xABCD] := by decide +kernel

/-! ### The LUT Manager (95_test_vectors.md V10 to V13) -/

theorem test_clampg : nextField (exec (.clampg (9 / 20)) State.reset) (·.ret) = some (.real 1) := by decide +kernel
theorem test_clampr_low : nextField (exec (.clampr (1 / 5)) State.reset) (·.ret) = some (.real (1 / 2)) := by decide +kernel
theorem test_clampr_high : nextField (exec (.clampr 3) State.reset) (·.ret) = some (.real 1) := by decide +kernel
theorem test_fwdent_32 : nextField (exec (.fwdent (.w5 1) Config.defaultGamma) State.reset) (·.ret) = some (.entry 5) := by
  decide +kernel
theorem test_fwdent_64 : nextField (exec (.fwdent (.w6 32) Config.defaultGamma) State.reset) (·.ret) = some (.entry 45) := by
  decide +kernel
theorem test_revent_32 : nextField (exec (.revent (.w5 16) Config.defaultGamma) State.reset) (·.ret) = some (.entry 8) := by
  decide +kernel
theorem test_revent_64 : nextField (exec (.revent (.w6 32) Config.defaultGamma) State.reset) (·.ret) = some (.entry 16) := by
  decide +kernel
theorem test_blendent :
    nextField (exec (.blendent (.w5 0 31 (forwardTable 5 Config.defaultGamma) (reverseTable 5 Config.defaultGamma))
      Config.defaultRatio) State.reset) (·.ret) = some (.entry 23) := by decide +kernel
theorem test_build :
    nextField (exec (.build (11 / 5) (1 / 2)) plain) (fun t => (Table.at t.lut.forward5 1, Table.at t.lut.reverse5 16)) =
      some (5, 8) := by decide +kernel

/-! ### The history store (worked examples of 42_history_store.md) -/

theorem test_resize : nextField (exec (.resize 2 1) later) (fun t => (t.hist.length, t.seeded)) = some (10, false) := by
  decide +kernel
theorem test_seed :
    nextField (exec (.seed [0x1111, 0x2222]) { State.reset with lastW := 2, lastH := 1, hist := List.replicate 10 0 })
      (·.hist) = some [0x1111, 0x2222, 0x1111, 0x2222, 0x1111, 0x2222, 0x1111, 0x2222, 0x1111, 0x2222] := by decide
theorem test_pushpx :
    nextField (exec (.pushpx 1 0 0xABCD)
      { State.reset with seeded := true, lastW := 2, lastH := 1, hist := List.replicate 10 0 }) (·.hist) =
      some [0, 0, 0, 0, 0, 0, 0, 0, 0, 0xABCD] := by decide
theorem test_advance : nextField (exec .advance later) (·.base) = some 4 := by decide
theorem test_advance_wraps : nextField (exec .advance { later with base := 4 }) (·.base) = some 3 := by decide
theorem test_at_rotates :
    nextField (exec (.atAge 3) { later with base := 3 }) (·.ret) = some (.frame [0x001F]) := by decide +kernel
theorem test_at_refuses : exec (.atAge 6) later = .refused .ageRange := rfl

/-! ### The datapath (worked examples of 41_blend_lookup.md and 43_pixel_blender.md) -/

theorem test_unpack : nextField (exec (.unpack 0x1234) State.reset) (·.ret) = some (.channels 2 17 20) := by decide +kernel
theorem test_pack : nextField (exec (.pack 2 17 20) State.reset) (·.ret) = some (.pixel 0x1234) := by decide +kernel
theorem test_blend2_order : nextField (exec (.blend2 0x0821 0x1042) plain) (·.ret) = some (.pixel 0x28A5) := by decide +kernel
theorem test_blend2_spec :
    nextField (exec (.blend2 0x0000 0xFFFF) State.reset) (·.ret) = some (.pixel 0xBDB7) := by decide +kernel
theorem test_blend3_truncates :
    nextField (exec (.blend3 0xF800 0x07E0 0x001F) plain) (·.ret) = some (.pixel 0x52AA) := by decide +kernel
theorem test_blend3_spec :
    nextField (exec (.blend3 0xF800 0x07E0 0x001F) State.reset) (·.ret) = some (.pixel 0x94B2) := by decide +kernel
theorem test_or3 : nextField (exec (.or3 0x8000 0x0400 0x0010) State.reset) (·.ret) = some (.pixel 0x8410) := by decide +kernel
theorem test_pure : (nextField (exec (.pure 0x0020) State.reset) (·.ret), nextField (exec (.pure 0xF81F) State.reset) (·.ret)) =
    (some (.bit true), some (.bit false)) := by decide +kernel
theorem test_elig3 : nextField (exec (.elig3 triple) State.reset) (·.ret) = some (.bit true) := by decide +kernel
theorem test_elig3_breaks :
    nextField (exec (.elig3 { triple with p5 := 0 }) State.reset) (·.ret) = some (.bit false) := by decide +kernel
theorem test_alt2 : (nextField (exec (.alt2 1 2 1) State.reset) (·.ret), nextField (exec (.alt2 1 1 1) State.reset) (·.ret)) =
    (some (.bit true), some (.bit false)) := by decide +kernel
theorem test_twopath_blends :
    nextField (exec (.twopath 0xF800 0x001F 0xF800) { State.reset with motionCheck := true }) (·.ret) =
      some (.pixel 0xB817) := by decide +kernel
theorem test_twopath_gated :
    nextField (exec (.twopath 0xF800 0x001F 0x07E0) { State.reset with motionCheck := true }) (·.ret) =
      some (.pixel 0xF800) := by decide +kernel
theorem test_triout_average :
    nextField (exec (.triout 0x001F 0x07E0 0xF800) State.reset) (·.ret) = some (.pixel 0x94B2) := by decide +kernel
theorem test_triout_or :
    nextField (exec (.triout 0x001F 0x07E0 0xF800) { State.reset with fullbright := true }) (·.ret) =
      some (.pixel 0xFFFF) := by decide +kernel
theorem test_pixel_eligible : nextField (exec (.pixel triple) State.reset) (·.out) = some 0x94B2 := by decide +kernel
theorem test_pixel_fallback :
    nextField (exec (.pixel { triple with p5 := 0 }) State.reset) (·.out) = some 0x05B7 := by decide +kernel

/-! ### The step -/

theorem test_poke :
    nextField (step { State.reset with inbox := [.poke 3 [0xABCD]] }) (·.mem) = some [(6, 0xCD), (7, 0xAB)] := by
  decide +kernel
theorem test_reserved_refused :
    step { State.reset with inbox := [.command ⟨0x05, Operands.zero⟩] } = .refused (.reservedOp 0x05) := rfl

/-! ### Witnesses: every statement with hypotheses has a state and operands that meet them all -/

/-- A render of a zero-width frame. -/
def hollow : RenderOperands := ⟨0, 0, 3, 0, 0, 0, 0, 6⟩

theorem fresh_inv : fresh.Inv := ⟨by decide, rfl, by decide, by decide⟩
theorem later_inv : later.Inv := ⟨by decide, rfl, by decide, by decide⟩
theorem resized_inv : resized.Inv := ⟨by decide, rfl, by decide, by decide⟩

theorem tiny_duties : SourceDuties tiny tinyMem ∧ DestDuties tiny tinyMem := by decide +kernel
theorem hollow_duties : SourceDuties hollow tinyMem ∧ DestDuties hollow tinyMem := by decide +kernel

theorem witness_DecodeAndEncodeAgree : ∃ (c : Command) (i : Instr), decode c = .ok i := ⟨encode .toggle, .toggle, rfl⟩
theorem witness_StepRunsTheDecodedInstruction :
    ∃ (s : State) (c : Command) (rest : List Input) (i : Instr), s.inbox = .command c :: rest ∧ decode c = .ok i :=
  ⟨State.reset.withFetchWord 8 0x02, tableCommand 0x02, [], .toggle, rfl, rfl⟩
theorem witness_IdleStepHoldsTheState : ∃ s : State, s.inbox = [] := ⟨State.reset, rfl⟩
theorem witness_HostWriteChangesOnlyItsCell :
    ∃ (s : State) (cell : Nat) (v : Pixel) (rest : List Input), s.inbox = .poke cell [v] :: rest :=
  ⟨{ State.reset with inbox := [.poke 0 [7]] }, 0, 7, [], rfl⟩
theorem witness_ReservedCodesAreRefused :
    ∃ (s : State) (c : Command) (rest : List Input), s.inbox = .command c :: rest ∧ c.op.toNat ∉ tableCodes :=
  ⟨State.reset.withFetchWord 8 0x05, tableCommand 0x05, [], rfl, by decide⟩
/-- A reserved code, a forbidden use and a broken duty on one side; no input, a host write and an allowed use on the
other, each in a state with the invariant. -/
theorem witness_RefusalsAreExactlyTheForbiddenUses :
    ((State.reset.withFetchWord 8 0x05).Inv ∧ (0x05 : Nat) ∉ tableCodes) ∧
      (later.Inv ∧ ¬ Allowed (.seed [7]) later ∧ Allowed .advance later ∧ Allowed (.render tiny) later ∧
        ¬ Allowed (.render { tiny with dest := 3 }) later) ∧
      (fresh.Inv ∧ fresh.inbox = []) ∧
      (∃ s : State, s.Inv ∧ ∃ rest, s.inbox = .poke 0 [7] :: rest) :=
  ⟨⟨⟨by decide, rfl, by decide, by decide⟩, by decide⟩,
    ⟨later_inv, by simp [Allowed, later], rfl, ⟨rfl, tiny_duties.1, fun _ => tiny_duties.2⟩,
      fun h => absurd (h.2.2 (by decide)) (by decide +kernel)⟩,
    ⟨fresh_inv, rfl⟩,
    ⟨{ State.reset with inbox := [.poke 0 [7]] }, ⟨by decide, rfl, by decide, by decide⟩, [], rfl⟩⟩
theorem witness_EveryStepKeepsTheInvariant : ∃ s t : State, s.Inv ∧ step s = .next t :=
  ⟨State.reset.withFetchWord 8 0x02, State.reset.toggleMode.returning .none, ⟨by decide, rfl, by decide, by decide⟩, rfl⟩
/-- The clauses of CONSTRUCT's and RELOAD's configuration: finite and not, a mode at each end of the range and beyond. -/
theorem witness_Sanitised :
    (∃ cfg : Cfg, cfg.gamma = .finite 1 ∧ cfg.ratio = .finite 1 ∧ 0 ≤ cfg.mode ∧ cfg.mode ≤ 2) ∧
      (∃ cfg : Cfg, (∀ q, cfg.gamma ≠ .finite q) ∧ (∀ q, cfg.ratio ≠ .finite q) ∧ cfg.mode < 0) ∧
      (∃ cfg : Cfg, cfg.mode = 2) ∧ ∃ cfg : Cfg, 2 < cfg.mode :=
  ⟨⟨⟨.finite 1, .finite 1, 0, true, true⟩, by decide⟩, ⟨⟨.nan, .negInf, -1, true, true⟩, by simp⟩,
    ⟨⟨.nan, .nan, 2, true, true⟩, rfl⟩, ⟨⟨.nan, .nan, 3, true, true⟩, by decide⟩⟩
/-- For RELOAD, TOGGLE and STATUS. -/
theorem witness_constructed : later.constructed = true ∧ later.mode ≠ 3 := by decide
theorem witness_CommandsBeforeConstructAreRefused : ∃ s : State, s.constructed = false :=
  ⟨{ State.reset with constructed := false }, rfl⟩

theorem witness_RenderSeedsTheFirstFrame :
    (fresh.constructed = true ∧ SourceDuties tiny fresh.mem ∧ DestDuties tiny fresh.mem ∧ CapacityHolds tiny ∧
      fresh.seeded = false) ∧
    ∃ s : State, s.constructed = true ∧ SourceDuties tiny s.mem ∧ DestDuties tiny s.mem ∧ CapacityHolds tiny ∧
      s.seeded = true ∧ s.lastW ≠ tiny.sourceW :=
  ⟨by decide +kernel, { fresh with seeded := true }, by decide +kernel⟩
theorem witness_RenderBlendsALaterFrame :
    later.Inv ∧ later.constructed = true ∧ SourceDuties tiny later.mem ∧ DestDuties tiny later.mem ∧
      CapacityHolds tiny ∧ later.seeded = true ∧ later.lastW = tiny.sourceW ∧ later.lastH = tiny.sourceH :=
  ⟨later_inv, by decide +kernel⟩
/-- Each capacity one short of what is needed. -/
theorem witness_RenderTooSmallWritesNothing :
    (∃ o : RenderOperands, SourceDuties o later.mem ∧ o.capW.toNat < 2 * o.sourceW.toNat ∧
      2 * o.sourceH.toNat ≤ o.capH.toNat ∧ later.lastW = o.sourceW ∧ later.lastH = o.sourceH) ∧
    ∃ o : RenderOperands, SourceDuties o later.mem ∧ 2 * o.sourceW.toNat ≤ o.capW.toNat ∧
      o.capH.toNat < 2 * o.sourceH.toNat ∧ later.lastW = o.sourceW ∧ later.lastH = o.sourceH :=
  ⟨⟨{ tiny with capW := 1 }, by decide +kernel⟩, ⟨{ tiny with capH := 1 }, by decide +kernel⟩⟩
theorem witness_RenderTooSmallAfterAResize :
    ∃ o : RenderOperands, fresh.constructed = true ∧ SourceDuties o fresh.mem ∧ o.capW.toNat < 2 * o.sourceW.toNat ∧
      fresh.lastW ≠ o.sourceW := ⟨{ tiny with capW := 1 }, by decide +kernel⟩
theorem witness_RenderInModeOffPassesThrough :
    later.Inv ∧ later.constructed = true ∧ SourceDuties tiny later.mem ∧ DestDuties tiny later.mem ∧
      CapacityHolds tiny ∧ later.mode = 0 := ⟨later_inv, by decide +kernel⟩
/-- A stride one short, a buffer one cell short, and an overlap. -/
theorem witness_BrokenHostDutiesAreRefused :
    (∃ (o : RenderOperands) (s : State), s.constructed = true ∧ ¬ SourceDuties o s.mem) ∧
    (∃ (o : RenderOperands) (s : State), s.constructed = true ∧ SourceDuties o s.mem ∧ ¬ DestDuties o s.mem ∧
      CapacityHolds o) ∧
    ∃ (o : RenderOperands) (s : State), s.constructed = true ∧ SourceDuties o s.mem ∧ ¬ DestDuties o s.mem ∧
      2 * o.sourceW.toNat ≤ o.dstStride.toNat ∧ CapacityHolds o :=
  ⟨⟨{ tiny with srcStride := 0 }, fresh, by decide +kernel⟩, ⟨{ tiny with dstStride := 1 }, fresh, by decide +kernel⟩,
    ⟨{ tiny with dest := 3 }, fresh, by decide +kernel⟩⟩
theorem witness_SeedpassSeedsAndReplicates :
    SourceDuties tiny resized.mem ∧ DestDuties tiny resized.mem ∧ resized.seeded = false ∧
      resized.lastW = tiny.sourceW ∧ resized.lastH = tiny.sourceH := by decide +kernel
theorem witness_BlendpassBlendsAndPushes :
    later.Inv ∧ SourceDuties tiny later.mem ∧ DestDuties tiny later.mem ∧ later.seeded = true ∧
      later.lastW = tiny.sourceW ∧ later.lastH = tiny.sourceH := ⟨later_inv, by decide +kernel⟩
/-- The clauses: seeded, unseeded, each with and without the frame's dimensions. -/
theorem witness_PassesInTheWrongConditionAreRefused :
    (SourceDuties tiny tinyMem ∧ DestDuties tiny tinyMem) ∧ later.seeded = true ∧
      (fresh.seeded = false ∧ fresh.lastW ≠ tiny.sourceW) ∧ resized.seeded = false ∧
      ∃ s : State, s.seeded = true ∧ s.lastH ≠ tiny.sourceH :=
  ⟨tiny_duties, by decide, by decide, by decide, { fresh with seeded := true }, by decide⟩
theorem witness_ReplpxWritesOneBlock :
    (∀ du < 2, ∀ dv < 2, (Memory.readPixel fresh.mem (2 + ((2 * 0 + dv) * 2 + (2 * 0 + du)))).isSome = true) ∧
      ∃ du < 2, ∃ dv < 2, Memory.readPixel fresh.mem (3 + ((2 * 0 + dv) * 2 + (2 * 0 + du))) = none :=
  ⟨by decide +kernel, 1, by decide, 1, by decide, by decide +kernel⟩
/-- For the statements about a BUILD, its ends, its diagonal and its ratio bounds: it answers a next state for every
operand, a ratio of 1 and of 1/2 included. -/
theorem witness_build :
    (∃ t, exec (.build (11 / 5) 1) State.reset = .next t) ∧ ∃ t, exec (.build (11 / 5) (1 / 2)) State.reset = .next t :=
  ⟨⟨_, rfl⟩, ⟨_, rfl⟩⟩

theorem witness_SeedFillsEveryAge :
    resized.seeded = false ∧ [(7 : Pixel)].length = resized.lastW.toNat * resized.lastH.toNat := by decide
theorem witness_PushpxWritesTheOldestSlot :
    later.Inv ∧ later.seeded = true ∧ (0 : Dim).toNat < later.lastW.toNat ∧ (0 : Dim).toNat < later.lastH.toNat :=
  ⟨later_inv, by decide⟩
/-- For ADVANCE and AT, at the youngest and the oldest age. -/
theorem witness_history_reads :
    later.Inv ∧ later.seeded = true ∧ (∃ age, 1 ≤ age ∧ age ≤ 5 ∧ age = 1) ∧ ∃ age, 1 ≤ age ∧ age ≤ 5 ∧ age = 5 :=
  ⟨later_inv, by decide, ⟨1, by decide⟩, ⟨5, by decide⟩⟩
/-- The clauses of the refusals: the frame one pixel short, the position one beyond the grid, the ages 0 and 6. -/
theorem witness_InvalidHistoryCallsAreRefused :
    later.seeded = true ∧ resized.seeded = false ∧
      ([] : List Pixel).length ≠ resized.lastW.toNat * resized.lastH.toNat ∧
      later.lastW.toNat ≤ (1 : Dim).toNat ∧ later.lastH.toNat ≤ (1 : Dim).toNat ∧ (0 = 0 ∨ 5 < 0) ∧ (6 = 0 ∨ 5 < 6) := by
  decide
theorem witness_PushFrameShiftsTheAges :
    later.Inv ∧ later.seeded = true ∧ [(7 : Pixel)].length = later.lastW.toNat * later.lastH.toNat ∧
      exec (.atAge 4) later = .next { later with ret := .frame [0x001F] } := ⟨later_inv, by decide, by decide, rfl⟩
theorem witness_FivePushesFillTheHistory :
    resized.Inv ∧ resized.seeded = false ∧ [(7 : Pixel)].length = resized.lastW.toNat * resized.lastH.toNat :=
  ⟨resized_inv, by decide, by decide⟩

theorem witness_PackAndUnpackAreInverse :
    exec (.unpack 0x1234) State.reset = .next { State.reset with ret := .channels 2 17 20 } ∧
      exec (.pack 2 17 20) State.reset = .next { State.reset with ret := .pixel 0x1234 } := ⟨rfl, rfl⟩
/-- The gate: unset; set and the pattern holds; set and it does not. -/
theorem witness_TwoPathIsGatedByMotionCheck :
    State.reset.motionCheck = false ∧ (∃ p0 p1 p2 : Pixel, p0 = p2 ∧ p0 ≠ p1 ∧ p1 ≠ p2) ∧
      ∃ (s : State) (p0 p1 p2 : Pixel), s.motionCheck = true ∧ ¬ (p0 = p2 ∧ p0 ≠ p1 ∧ p1 ≠ p2) :=
  ⟨rfl, ⟨1, 2, 1, by decide⟩, { State.reset with motionCheck := true }, 1, 1, 1, rfl, by decide⟩
theorem witness_TriOutFollowsFullbright : (∃ s : State, s.fullbright = true) ∧ ∃ s : State, s.fullbright = false :=
  ⟨⟨{ State.reset with fullbright := true }, rfl⟩, State.reset, rfl⟩
/-- The four modes; in mode Auto an eligible and an ineligible position, in mode TwoFrame any. -/
theorem witness_PixelDispatchesByMode :
    later.mode = 0 ∧ (∃ s : State, s.mode = 1 ∧
      exec (.twopath triple.p0 triple.p1 triple.p2) s = .next { s with ret := .pixel 0x001F } ∧
      exec (.elig3 triple) s = .next { s with ret := .bit true }) ∧
    (∃ (s : State) (ps : Samples), s.mode = 2 ∧
      exec (.twopath ps.p0 ps.p1 ps.p2) s = .next { s with ret := .pixel 0x001F } ∧
      exec (.elig3 ps) s = .next { s with ret := .bit false }) ∧
    (∃ s : State, s.mode = 2 ∧
      exec (.triout triple.p0 triple.p1 triple.p2) s = .next { s with ret := .pixel 0xFFFF } ∧
      exec (.elig3 triple) s = .next { s with ret := .bit true }) ∧ ∃ s : State, s.mode = 3 :=
  ⟨rfl, ⟨{ State.reset with mode := 1, motionCheck := true }, rfl, rfl, rfl⟩,
    ⟨{ State.reset with motionCheck := true }, { triple with p5 := 0 }, rfl, rfl, rfl⟩,
    ⟨{ State.reset with fullbright := true }, rfl, rfl, rfl⟩, ⟨{ State.reset with mode := 3 }, rfl⟩⟩

/-- For the two statements on the writers of registers and of memory: an instruction outside each list of writers. -/
theorem witness_writers :
    ∃ (i : Instr) (s t : State), exec i s = .next t ∧ (∀ c, i ≠ .construct c) ∧ (∀ c, i ≠ .reload c) ∧
      (∀ g r, i ≠ .build g r) ∧ (∀ w h, i ≠ .resize w h) ∧ (∀ o, i ≠ .render o) ∧ i ≠ .toggle ∧
      (∀ d st x y v, i ≠ .replpx d st x y v) ∧ (∀ o, i ≠ .seedpass o) ∧ ∀ o, i ≠ .blendpass o :=
  ⟨.status, State.reset, _, rfl, by simp⟩
theorem witness_TransientsAreUnobservable : ∃ t, exec (.render tiny) fresh = .next t :=
  exists_of_goesOn (by decide +kernel)

end Sys2Proof.Tests
end

/-! PROOF. The channel datapath operations (41_blend_lookup.md): the fields of a pixel as numbers, reads of the tables
at those numbers, and the statements on UNPACK, PACK, BLEND2, BLEND3 and OR3. -/

namespace Sys2Proof.Machine

open Sys2Proof.Claims

/-! ### The fields of a pixel as numbers -/

@[simp] theorem redOf_toNat (p : Pixel) : (redOf p).toNat = red p := by
  have hp : p.toNat / 2048 < 32 := by omega
  simpa [redOf, red, Nat.shiftRight_eq_div_pow] using hp

@[simp] theorem greenOf_toNat (p : Pixel) : (greenOf p).toNat = green p := by
  simp [greenOf, green, Nat.shiftRight_eq_div_pow]

@[simp] theorem blueOf_toNat (p : Pixel) : (blueOf p).toNat = blue p := by
  simp [blueOf, blue]

/-- PACK's concatenation as arithmetic: the fields do not overlap (41_blend_lookup.md R131). -/
theorem packPixel_toNat (r : BitVec 5) (g : BitVec 6) (b : BitVec 5) :
    (packPixel r g b).toNat = r.toNat * 2048 + g.toNat * 32 + b.toNat := by
  rw [packPixel, BitVec.toNat_append, ← Nat.shiftLeft_add_eq_or_of_lt b.isLt, BitVec.toNat_append,
    ← Nat.shiftLeft_add_eq_or_of_lt g.isLt, Nat.shiftLeft_eq, Nat.shiftLeft_eq]
  ring

/-! ### Reads of the tables, as the statements write them -/

theorem Table.toList_at {n : Nat} (t : Table n) (i : BitVec n) : t.toList[i.toNat]? = some (Table.at t i) := by
  rw [Vector.getElem?_toList, Vector.getElem?_eq_getElem i.isLt, Table.at]

theorem BlendTable.toList_at {n : Nat} (t : BlendTable n) (i j : BitVec n) :
    t.toList[i.toNat * 2 ^ n + j.toNat]? = some (BlendTable.at t i j) := by
  rw [Vector.getElem?_toList, Vector.getElem?_eq_getElem (flatIndex_lt i j), BlendTable.at]

theorem Table.toList_red (t : Table 5) (p : Pixel) : t.toList[red p]? = some (Table.at t (redOf p)) := by
  rw [← redOf_toNat, Table.toList_at]

theorem Table.toList_green (t : Table 6) (p : Pixel) : t.toList[green p]? = some (Table.at t (greenOf p)) := by
  rw [← greenOf_toNat, Table.toList_at]

theorem Table.toList_blue (t : Table 5) (p : Pixel) : t.toList[blue p]? = some (Table.at t (blueOf p)) := by
  rw [← blueOf_toNat, Table.toList_at]

/-- BLEND3's forward index never leaves the table: the average of three channel values is a channel value. -/
theorem average_lt {n : Nat} (a b c : BitVec n) : (a.toNat + b.toNat + c.toNat) / 3 < 2 ^ n := by
  have ha := a.isLt
  have hb := b.isLt
  have hc := c.isLt
  omega

/-- The entry that `averageChannel` reads is at the average itself: the conversion to a channel value drops nothing. -/
theorem averageChannel_toList {n : Nat} (forward reverse : Table n) (a b c : BitVec n) :
    forward.toList[((Table.at reverse a).toNat + (Table.at reverse b).toNat + (Table.at reverse c).toNat) / 3]? =
      some (averageChannel forward reverse a b c) := by
  have hindex := average_lt (Table.at reverse a) (Table.at reverse b) (Table.at reverse c)
  rw [averageChannel, ← Table.toList_at, BitVec.toNat_ofNat, Nat.mod_eq_of_lt hindex]

/-! ### What each operation answers -/

theorem exec_unpack (p : Pixel) (s : State) :
    exec (.unpack p) s = .next { s with ret := .channels (redOf p) (greenOf p) (blueOf p) } := rfl

theorem exec_pack (r : BitVec 5) (g : BitVec 6) (b : BitVec 5) (s : State) :
    exec (.pack r g b) s = .next { s with ret := .pixel (packPixel r g b) } := rfl

theorem exec_blend2 (pPrev pCur : Pixel) (s : State) :
    exec (.blend2 pPrev pCur) s = .next { s with ret := .pixel (blendTwo s.lut pPrev pCur) } := rfl

theorem exec_blend3 (pa pb pc : Pixel) (s : State) :
    exec (.blend3 pa pb pc) s = .next { s with ret := .pixel (blendThree s.lut pa pb pc) } := rfl

theorem exec_or3 (pa pb pc : Pixel) (s : State) :
    exec (.or3 pa pb pc) s = .next { s with ret := .pixel (orThree pa pb pc) } := rfl

/-! ### The statements -/

/-- Settles O45: the model's bit slices are the fields as numbers. -/
theorem unpackReturnsTheFields : Obligations.UnpackReturnsTheFields := by
  intro p s
  exact ⟨redOf p, greenOf p, blueOf p, exec_unpack p s, redOf_toNat p, greenOf_toNat p, blueOf_toNat p⟩

/-- Settles O46, by `packPixel_toNat`. -/
theorem packPlacesTheFields : Obligations.PackPlacesTheFields := by
  intro r g b s
  exact ⟨packPixel r g b, exec_pack r g b s, packPixel_toNat r g b⟩

/-- Settles O48: each channel's flat index is in its blend table, so the read has an entry. -/
theorem blendTwoLooksUpTheTables : Obligations.BlendTwoLooksUpTheTables := by
  intro prev cur s
  have hred := BlendTable.toList_at s.lut.blend5 (redOf prev) (redOf cur)
  have hgreen := BlendTable.toList_at s.lut.blend6 (greenOf prev) (greenOf cur)
  have hblue := BlendTable.toList_at s.lut.blend5 (blueOf prev) (blueOf cur)
  rw [redOf_toNat, redOf_toNat] at hred
  rw [greenOf_toNat, greenOf_toNat] at hgreen
  rw [blueOf_toNat, blueOf_toNat] at hblue
  exact ⟨_, _, _, _, hred, hgreen, hblue, packPixel_toNat _ _ _, exec_blend2 prev cur s⟩

/-- Settles O49: per channel three reads of the reverse table, then `averageChannel_toList`. -/
theorem blendThreeAveragesTheTables : Obligations.BlendThreeAveragesTheTables := by
  intro pa pb pc s
  have hred := averageChannel_toList s.lut.forward5 s.lut.reverse5 (redOf pa) (redOf pb) (redOf pc)
  have hgreen := averageChannel_toList s.lut.forward6 s.lut.reverse6 (greenOf pa) (greenOf pb) (greenOf pc)
  have hblue := averageChannel_toList s.lut.forward5 s.lut.reverse5 (blueOf pa) (blueOf pb) (blueOf pc)
  exact ⟨_, _, _, _, _, _, _, _, _, _, _, _, _,
    Table.toList_red _ pa, Table.toList_red _ pb, Table.toList_red _ pc, hred,
    Table.toList_green _ pa, Table.toList_green _ pb, Table.toList_green _ pc, hgreen,
    Table.toList_blue _ pa, Table.toList_blue _ pb, Table.toList_blue _ pc, hblue,
    packPixel_toNat _ _ _, exec_blend3 pa pb pc s⟩

/-- Settles O50, bit by bit. -/
theorem orThreeIsTheBitwiseOr : Obligations.OrThreeIsTheBitwiseOr := by
  intro pa pb pc s
  refine ⟨orThree pa pb pc, exec_or3 pa pb pc s, fun k _ => ?_⟩
  rw [orThree, BitVec.getLsbD_or, BitVec.getLsbD_or]

end Sys2Proof.Machine

/-! PROOF. The push of a frame into the history store (42_history_store.md R157): what PUSHPX, ADVANCE and AT answer,
frames as slots of HIST, and the effect of PUSHPX at a list of positions. -/

namespace Sys2Proof.Machine

open Sys2Proof.Claims

/-! ### Operations one after the other -/

theorem runAll_cons (i : Instr) (is : List Instr) (s : State) : runAll (i :: is) s = andThen (exec i s) (runAll is) :=
  rfl

theorem runAll_append (is js : List Instr) (s : State) :
    runAll (is ++ js) s = andThen (runAll is s) (runAll js) := by
  induction is generalizing s with
  | nil => rfl
  | cons i is ih =>
    rw [List.cons_append, runAll_cons, runAll_cons]
    cases exec i s with
    | next u => exact ih u
    | fault e => rfl
    | refused e => rfl

/-! ### The slots of the store as frames -/

/-- The frame that a slot of HIST holds, row-major (20_memory.md R43). -/
def State.slotFrame (s : State) (a : Nat) : List Pixel := (s.hist.drop (a * s.slotSize)).take s.slotSize

/-- In a store of the right size a slot is wholly there. -/
theorem State.slot_le {s : State} (hl : s.hist.length = 5 * s.slotSize) {a : Nat} (ha : a < 5) :
    (a + 1) * s.slotSize ≤ s.hist.length := by
  rw [hl]
  exact Nat.mul_le_mul_right _ ha

theorem State.frameAt_eq {s : State} (hl : s.hist.length = 5 * s.slotSize) (age : Nat) :
    s.frameAt age = some (s.slotFrame (slotOf s.base age)) :=
  if_pos (State.slot_le hl (slotOf_lt s.base age))

theorem State.slotFrame_length {s : State} (hl : s.hist.length = 5 * s.slotSize) {a : Nat} (ha : a < 5) :
    (s.slotFrame a).length = s.slotSize := by
  have hle := State.slot_le hl ha
  rw [Nat.add_mul] at hle
  rw [State.slotFrame, List.length_take, List.length_drop]
  omega

theorem State.slotFrame_getElem? (s : State) (a : Nat) {k : Nat} (hk : k < s.slotSize) :
    (s.slotFrame a)[k]? = s.hist[a * s.slotSize + k]? := by
  rw [State.slotFrame, List.getElem?_take_of_lt hk, List.getElem?_drop]

/-- A slot holds the frame whose pixels its cells hold. -/
theorem State.slotFrame_eq {s : State} (hl : s.hist.length = 5 * s.slotSize) {a : Nat} (ha : a < 5)
    {frame : List Pixel} (hf : frame.length = s.slotSize)
    (h : ∀ k < s.slotSize, s.hist[a * s.slotSize + k]? = frame[k]?) : s.slotFrame a = frame := by
  have hlen := State.slotFrame_length hl ha
  refine List.ext_getElem? fun k => ?_
  rcases Nat.lt_or_ge k s.slotSize with hk | hk
  · rw [State.slotFrame_getElem? s a hk, h k hk]
  · rw [List.getElem?_eq_none (by omega), List.getElem?_eq_none (by omega)]

/-- Pixel `k` of a frame is at column `k % W`, row `k / W` of the grid. -/
theorem State.position_of_index {s : State} {k : Nat} (hk : k < s.slotSize) :
    k % s.lastW.toNat < s.lastW.toNat ∧ k / s.lastW.toNat < s.lastH.toNat := by
  have hw : 0 < s.lastW.toNat := Nat.pos_of_mul_pos_right (Nat.zero_lt_of_lt hk)
  exact ⟨Nat.mod_lt _ hw, Nat.div_lt_of_lt_mul hk⟩

theorem State.histCell_of_index (s : State) (a k : Nat) :
    s.histCell a (k % s.lastW.toNat) (k / s.lastW.toNat) = a * s.slotSize + k := by
  rw [State.histCell, Nat.add_assoc, Nat.div_add_mod']

theorem State.pushCell_lt {s : State} (hl : s.hist.length = 5 * s.slotSize) {x y : Nat} (hx : x < s.lastW.toNat)
    (hy : y < s.lastH.toNat) : s.pushCell x y < s.hist.length := by
  rw [hl]
  exact State.histCell_lt (pushSlot_lt s.base) hx hy

/-- The slot a push writes is the slot of no age from 1 to 4. -/
theorem slotOf_ne_pushSlot (b : Fin 5) {age : Nat} (h1 : 1 ≤ age) (h4 : age ≤ 4) : slotOf b age ≠ pushSlot b := by
  unfold slotOf pushSlot
  omega

/-! ### What each operation answers -/

theorem exec_pushpx {s : State} (hseed : s.seeded = true) (hl : s.hist.length = 5 * s.slotSize) {x y : Dim}
    (hx : x.toNat < s.lastW.toNat) (hy : y.toNat < s.lastH.toNat) (v : Pixel) :
    exec (.pushpx x y v) s = .next { s with hist := s.hist.set (s.pushCell x.toNat y.toNat) v, ret := .none } := by
  have hpush := (pushPixel_next (v := v)).2 ⟨hseed, hx, hy, State.pushCell_lt hl hx hy, rfl⟩
  exact andThen_next.2 ⟨_, hpush, rfl⟩

theorem exec_advance {s : State} (hseed : s.seeded = true) :
    exec .advance s = .next { s with base := s.advanceBase.base, ret := .none } :=
  andThen_next.2 ⟨_, advanceStore_next.2 ⟨hseed, rfl⟩, rfl⟩

theorem exec_atAge {s : State} (hseed : s.seeded = true) (hl : s.hist.length = 5 * s.slotSize) {age : Nat}
    (h1 : 1 ≤ age) (h5 : age ≤ 5) :
    exec (.atAge age) s = .next { s with ret := .frame (s.slotFrame (slotOf s.base age)) } := by
  have hage : ageOk age = true := by simp [ageOk, h1, h5]
  change execAtAge age s = _
  simp only [execAtAge, hseed, hage, State.frameAt_eq hl, if_true, State.returning]

/-! ### PUSHPX at a list of positions -/

/-- `hist` is HIST of `s` after the values `val` were pushed at the positions `qs` (42_history_store.md R154). -/
structure PushedValues (val : Nat × Nat → Pixel) (qs : List (Nat × Nat)) (s : State) (hist : List Pixel) : Prop where
  length : hist.length = s.hist.length
  at_position : ∀ q ∈ qs, hist[s.pushCell q.1 q.2]? = some (val q)
  other : ∀ k, (∀ q ∈ qs, k ≠ s.pushCell q.1 q.2) → hist[k]? = s.hist[k]?

/-- PUSHPX at distinct positions of the grid completes; of the state only HIST and the result change. -/
theorem runAll_pushpx {val : Nat × Nat → Pixel} {qs : List (Nat × Nat)} {s : State} (hseed : s.seeded = true)
    (hl : s.hist.length = 5 * s.slotSize) (hn : qs.Nodup)
    (hq : ∀ q ∈ qs, q.1 < s.lastW.toNat ∧ q.2 < s.lastH.toNat) :
    ∃ hist ret, runAll (qs.map fun q => .pushpx (BitVec.ofNat 16 q.1) (BitVec.ofNat 16 q.2) (val q)) s =
        .next { s with hist := hist, ret := ret } ∧ PushedValues val qs s hist := by
  induction qs generalizing s with
  | nil => exact ⟨s.hist, s.ret, rfl, rfl, by simp, fun _ _ => rfl⟩
  | cons q qs ih =>
    obtain ⟨hx, hy⟩ := hq q List.mem_cons_self
    obtain ⟨hnotin, hn⟩ := List.nodup_cons.1 hn
    have hqs := fun r hr => hq r (List.mem_cons_of_mem q hr)
    have hx16 : (BitVec.ofNat 16 q.1).toNat = q.1 := Nat.mod_eq_of_lt (hx.trans s.lastW.isLt)
    have hy16 : (BitVec.ofNat 16 q.2).toNat = q.2 := Nat.mod_eq_of_lt (hy.trans s.lastH.isLt)
    have hfirst := exec_pushpx hseed hl (hx16.symm ▸ hx) (hy16.symm ▸ hy) (val q)
    rw [hx16, hy16] at hfirst
    have hne : ∀ r ∈ qs, s.pushCell q.1 q.2 ≠ s.pushCell r.1 r.2 := by
      intro r hr he
      obtain ⟨-, h1, h2⟩ := State.histCell_inj hx (hqs r hr).1 hy (hqs r hr).2 he
      exact hnotin (Prod.ext h1 h2 ▸ hr)
    obtain ⟨hist, ret, hrun, hpushed⟩ := ih
      (s := { s with hist := s.hist.set (s.pushCell q.1 q.2) (val q), ret := .none }) hseed
      (List.length_set.trans hl) hn hqs
    refine ⟨hist, ret, ?_, hpushed.length.trans List.length_set, fun r hr => ?_, fun k hk => ?_⟩
    · rw [List.map_cons, runAll_cons, hfirst]
      exact hrun
    · rcases List.mem_cons.1 hr with rfl | hr
      · exact (hpushed.other _ hne).trans (List.getElem?_set_self (State.pushCell_lt hl hx hy))
      · exact hpushed.at_position r hr
    · have hrest := hpushed.other k fun r hr => hk r (List.mem_cons_of_mem q hr)
      exact hrest.trans (List.getElem?_set_ne (hk q List.mem_cons_self).symm)

/-- A frame pushed at every position fills the slot of age 5 and leaves the other slots. -/
theorem PushedValues.slotFrame {frame : List Pixel} {s : State} (hl : s.hist.length = 5 * s.slotSize)
    (hf : frame.length = s.slotSize) {t : State}
    (h : PushedValues (fun q => frame[q.2 * s.lastW.toNat + q.1]?.getD 0)
      (positions s.lastW.toNat s.lastH.toNat) s t.hist)
    (hw : t.lastW = s.lastW) (hh : t.lastH = s.lastH) :
    t.slotFrame (pushSlot s.base) = frame ∧ ∀ a < 5, a ≠ pushSlot s.base → t.slotFrame a = s.slotFrame a := by
  have hsize : t.slotSize = s.slotSize := by rw [State.slotSize, State.slotSize, hw, hh]
  have hlt : t.hist.length = 5 * t.slotSize := by rw [h.length, hl, hsize]
  refine ⟨State.slotFrame_eq hlt (pushSlot_lt s.base) (hf.trans hsize.symm) fun k hk => ?_, fun a ha hne =>
    State.slotFrame_eq hlt ha ((State.slotFrame_length hl ha).trans hsize.symm) fun k hk => ?_⟩
  · rw [hsize] at hk ⊢
    have hread := h.at_position (k % s.lastW.toNat, k / s.lastW.toNat) (mem_positions.2 (State.position_of_index hk))
    have hkf : k < frame.length := hf ▸ hk
    rw [State.pushCell, State.histCell_of_index] at hread
    rw [hread, Nat.div_add_mod', List.getElem?_eq_getElem hkf, Option.getD_some]
  · rw [hsize] at hk ⊢
    rw [State.slotFrame_getElem? s a hk]
    refine h.other _ fun q hq he => hne ?_
    obtain ⟨hx, hy⟩ := State.position_of_index hk
    obtain ⟨hqx, hqy⟩ := mem_positions.1 hq
    rw [← State.histCell_of_index] at he
    exact (State.histCell_inj hx hqx hy hqy he).1

/-- PUSHPX at every position, then ADVANCE: the frame is in the slot that becomes that of age 1, the other slots are
left, and of the state only HIST, BASE and the result change (42_history_store.md R157). -/
theorem runAll_pushFrame {frame : List Pixel} {s : State} (hseed : s.seeded = true)
    (hl : s.hist.length = 5 * s.slotSize) (hf : frame.length = s.slotSize) :
    ∃ t, runAll (pushFrame s.lastW.toNat s.lastH.toNat frame) s = .next t ∧
      t = { s with base := s.advanceBase.base, hist := t.hist, ret := .none } ∧
      t.hist.length = s.hist.length ∧ t.slotFrame (pushSlot s.base) = frame ∧
      ∀ a < 5, a ≠ pushSlot s.base → t.slotFrame a = s.slotFrame a := by
  obtain ⟨hist, ret, hrun, hpushed⟩ := runAll_pushpx (val := fun q => frame[q.2 * s.lastW.toNat + q.1]?.getD 0)
    hseed hl (positions_nodup s.lastW.toNat s.lastH.toNat) fun q hq => mem_positions.1 hq
  refine ⟨{ s with base := s.advanceBase.base, hist := hist, ret := .none }, ?_, rfl, hpushed.length,
    PushedValues.slotFrame hl hf hpushed rfl rfl⟩
  have hadvance := exec_advance (s := { s with hist := hist, ret := ret }) hseed
  rw [pushFrame, runAll_append, hrun, andThen_next_eq, runAll_cons, hadvance]
  rfl

/-! ### The statement -/

/-- Settles O43: the pushed frame is in the slot of age 5, which ADVANCE makes that of age 1, and the slots of the ages
1 to 4 become those of the ages 2 to 5. -/
theorem pushFrameShiftsTheAges : Obligations.PushFrameShiftsTheAges := by
  intro frame s hinv hseed hf
  obtain ⟨t, hrun, ht, hlen, hnew, hkeep⟩ := runAll_pushFrame hseed hinv.hist_size hf
  have hseed' : t.seeded = true := by rw [ht]; exact hseed
  have hl' : t.hist.length = 5 * t.slotSize := by rw [hlen, ht]; exact hinv.hist_size
  have hbase : t.base = s.advanceBase.base := by rw [ht]
  obtain ⟨hyoungest, holder⟩ := slotOf_advanceBase s
  refine ⟨t, hrun, ?_, fun age h1 h4 old hold => ?_⟩
  · rw [exec_atAge hseed' hl' (by omega) (by omega), hbase, hyoungest, ← pushSlot_eq_slotOf_five, hnew]
  · have hframe : s.slotFrame (slotOf s.base age) = old := by
      rw [exec_atAge hseed hinv.hist_size h1 (by omega)] at hold
      simpa using hold
    rw [exec_atAge hseed' hl' (by omega) (by omega), hbase, holder age h1 h4,
      hkeep _ (slotOf_lt s.base age) (slotOf_ne_pushSlot s.base h1 h4), hframe]

end Sys2Proof.Machine

/-! PROOF. The per-pixel evaluation (43_pixel_blender.md): what the predicates, TWOPATH, TRIOUT and the dispatch by mode
say in each case, and the statements on PURE, ELIG3, ALT2, TWOPATH, TRIOUT and PIXEL. -/

namespace Sys2Proof.Machine

open Sys2Proof.Claims

/-! ### The predicates as propositions -/

theorem redOf_eq_zero_iff (p : Pixel) : redOf p = 0 ↔ red p = 0 := by
  rw [← redOf_toNat, BitVec.toNat_eq]; rfl

theorem greenOf_eq_zero_iff (p : Pixel) : greenOf p = 0 ↔ green p = 0 := by
  rw [← greenOf_toNat, BitVec.toNat_eq]; rfl

theorem blueOf_eq_zero_iff (p : Pixel) : blueOf p = 0 ↔ blue p = 0 := by
  rw [← blueOf_toNat, BitVec.toNat_eq]; rfl

theorem nonZero_eq_zero_iff {n : Nat} (c : BitVec n) : nonZero c = 0 ↔ c = 0 := by
  simp [nonZero]

theorem nonZero_le_one {n : Nat} (c : BitVec n) : nonZero c ≤ 1 := by
  unfold nonZero; split_ifs <;> decide

/-- A count of three channels of at most 1 says that some two of them are zero. -/
theorem nonZero_sum_le_one_iff {k m n : Nat} (r : BitVec k) (g : BitVec m) (b : BitVec n) :
    nonZero r + nonZero g + nonZero b ≤ 1 ↔ (r = 0 ∧ g = 0) ∨ (r = 0 ∧ b = 0) ∨ (g = 0 ∧ b = 0) := by
  have hr := nonZero_le_one r
  have hg := nonZero_le_one g
  have hb := nonZero_le_one b
  rw [← nonZero_eq_zero_iff r, ← nonZero_eq_zero_iff g, ← nonZero_eq_zero_iff b]
  omega

/-- PURE (43_pixel_blender.md R170). -/
theorem isPure_iff (p : Pixel) : isPure p = true ↔ AtMostOneChannel p := by
  rw [isPure, decide_eq_true_iff, nonZero_sum_le_one_iff, redOf_eq_zero_iff, greenOf_eq_zero_iff, blueOf_eq_zero_iff,
    AtMostOneChannel]

/-- ELIG3 (43_pixel_blender.md R172). -/
theorem eligible3_iff (ps : Samples) :
    eligible3 ps = true ↔ AtMostOneChannel ps.p0 ∧ AtMostOneChannel ps.p1 ∧ AtMostOneChannel ps.p2 ∧
      ps.p0 = ps.p3 ∧ ps.p1 = ps.p4 ∧ ps.p2 = ps.p5 := by
  simp only [eligible3, Bool.and_eq_true, beq_iff_eq, isPure_iff, and_assoc]

/-- ALT2 (43_pixel_blender.md R173). -/
theorem alternates2_iff (p0 p1 p2 : Pixel) : alternates2 p0 p1 p2 = true ↔ p0 = p2 ∧ p0 ≠ p1 ∧ p1 ≠ p2 := by
  simp only [alternates2, Bool.and_eq_true, beq_iff_eq, bne_iff_ne, and_assoc]

/-! ### The pixel paths, case by case -/

/-- The motion gate is open: TWOPATH blends (43_pixel_blender.md R174). -/
theorem twoPath_of_open {motionCheck : Bool} {p0 p1 p2 : Pixel}
    (h : motionCheck = false ∨ alternates2 p0 p1 p2 = true) (lut : Lut) :
    twoPath lut motionCheck p0 p1 p2 = blendTwo lut p1 p0 := by
  rcases h with h | h <;> simp [twoPath, h]

/-- The motion gate is closed: TWOPATH passes `P[0]` (43_pixel_blender.md R174). -/
theorem twoPath_of_closed {motionCheck : Bool} {p0 p1 p2 : Pixel} (hcheck : motionCheck = true)
    (hpattern : ¬ alternates2 p0 p1 p2 = true) (lut : Lut) : twoPath lut motionCheck p0 p1 p2 = p0 := by
  rw [twoPath, if_pos hcheck, if_neg hpattern]

theorem triOut_of_fullbright {fullbright : Bool} (h : fullbright = true) (lut : Lut) (p0 p1 p2 : Pixel) :
    triOut lut fullbright p0 p1 p2 = orThree p0 p1 p2 := if_pos h

theorem triOut_of_not_fullbright {fullbright : Bool} (h : fullbright = false) (lut : Lut) (p0 p1 p2 : Pixel) :
    triOut lut fullbright p0 p1 p2 = blendThree lut p0 p1 p2 := if_neg (Bool.eq_false_iff.1 h)

section
variable (fullbright motionCheck : Bool) (lut : Lut) (ps : Samples)

theorem pixelOut_off : pixelOut 0 fullbright motionCheck lut ps = some ps.p0 := rfl

theorem pixelOut_twoFrame :
    pixelOut 1 fullbright motionCheck lut ps = some (twoPath lut motionCheck ps.p0 ps.p1 ps.p2) := rfl

theorem pixelOut_auto_of_eligible (h : eligible3 ps = true) :
    pixelOut 2 fullbright motionCheck lut ps = some (triOut lut fullbright ps.p0 ps.p1 ps.p2) := if_pos h

theorem pixelOut_auto_of_not_eligible (h : eligible3 ps = false) :
    pixelOut 2 fullbright motionCheck lut ps = some (twoPath lut motionCheck ps.p0 ps.p1 ps.p2) :=
  if_neg (Bool.eq_false_iff.1 h)

theorem pixelOut_reserved : pixelOut 3 fullbright motionCheck lut ps = none := rfl

end

/-! ### What each operation answers -/

theorem exec_pure (p : Pixel) (s : State) : exec (.pure p) s = .next { s with ret := .bit (isPure p) } := rfl

theorem exec_elig3 (ps : Samples) (s : State) : exec (.elig3 ps) s = .next { s with ret := .bit (eligible3 ps) } := rfl

theorem exec_alt2 (p0 p1 p2 : Pixel) (s : State) :
    exec (.alt2 p0 p1 p2) s = .next { s with ret := .bit (alternates2 p0 p1 p2) } := rfl

theorem exec_twopath (p0 p1 p2 : Pixel) (s : State) :
    exec (.twopath p0 p1 p2) s = .next { s with ret := .pixel (twoPath s.lut s.motionCheck p0 p1 p2) } := rfl

theorem exec_triout (p0 p1 p2 : Pixel) (s : State) :
    exec (.triout p0 p1 p2) s = .next { s with ret := .pixel (triOut s.lut s.fullbright p0 p1 p2) } := rfl

/-- PIXEL puts the value of the dispatch into OUT and answers with it (43_pixel_blender.md R178). -/
theorem exec_pixel_of_some {ps : Samples} {s : State} {v : Pixel}
    (h : pixelOut s.mode s.fullbright s.motionCheck s.lut ps = some v) :
    exec (.pixel ps) s = .next { s with out := v, ret := .pixel v } :=
  andThen_next.2 ⟨s.setOut v, evaluatePixel_next.2 ⟨v, h, rfl⟩, rfl⟩

/-- Where the dispatch has no value PIXEL is refused. -/
theorem exec_pixel_of_none {ps : Samples} {s : State}
    (h : pixelOut s.mode s.fullbright s.motionCheck s.lut ps = none) : exec (.pixel ps) s = .refused .reservedMode := by
  have hrefused : evaluatePixel ps s = .refused .reservedMode := by rw [evaluatePixel, h]
  change andThen (evaluatePixel ps s) _ = _
  rw [hrefused]
  rfl

/-- Two answers that leave every register but the result agree only if the results do. -/
theorem State.ret_eq_of_next {s : State} {r q : Result}
    (h : (.next { s with ret := r } : Step) = .next { s with ret := q }) : r = q :=
  congrArg State.ret (Host.Outcome.next.inj h)

/-! ### The statements -/

/-- Settles O51, by `isPure_iff`. -/
theorem pureMeansAtMostOneChannel : Obligations.PureMeansAtMostOneChannel := by
  intro p s
  exact ⟨isPure p, exec_pure p s, isPure_iff p⟩

/-- Settles O52, by `eligible3_iff`. -/
theorem eligibilityIsAPureThreePeriod : Obligations.EligibilityIsAPureThreePeriod := by
  intro ps s
  exact ⟨eligible3 ps, exec_elig3 ps s, eligible3_iff ps⟩

/-- Settles O53, by `alternates2_iff`. -/
theorem alternationIsTheTwoStepPattern : Obligations.AlternationIsTheTwoStepPattern := by
  intro p0 p1 p2 s
  exact ⟨alternates2 p0 p1 p2, exec_alt2 p0 p1 p2 s, alternates2_iff p0 p1 p2⟩

/-- Settles O54: the gate is open or closed. -/
theorem twoPathIsGatedByMotionCheck : Obligations.TwoPathIsGatedByMotionCheck := by
  intro p0 p1 p2 s
  refine ⟨blendTwo s.lut p1 p0, exec_blend2 p1 p0 s, fun hopen => ?_, fun ⟨hcheck, hpattern⟩ => ?_⟩
  · rw [← alternates2_iff] at hopen
    rw [exec_twopath, twoPath_of_open hopen]
  · rw [← alternates2_iff] at hpattern
    rw [exec_twopath, twoPath_of_closed hcheck hpattern]

/-- Settles O55: TRIOUT's value is that of OR3 or of BLEND3. -/
theorem triOutFollowsFullbright : Obligations.TriOutFollowsFullbright := by
  intro p0 p1 p2 s
  refine ⟨⟨_, exec_triout p0 p1 p2 s⟩, fun hbright => ?_, fun hbright => ?_⟩
  · rw [exec_triout, triOut_of_fullbright hbright, exec_or3]
  · rw [exec_triout, triOut_of_not_fullbright hbright, exec_blend3]

/-- Settles O56: the answers of TWOPATH, TRIOUT and ELIG3 name the values that the dispatch chooses between. -/
theorem pixelDispatchesByMode : Obligations.PixelDispatchesByMode := by
  intro ps s
  refine ⟨fun hmode => ?off, fun v e htwo helig hmode => ?twoPath, fun v htri helig hmode => ?triOut,
    fun hmode => ?completes, fun hmode => ?reserved⟩
  case off => exact exec_pixel_of_some (hmode ▸ pixelOut_off ..)
  case twoPath =>
    have hv := Result.pixel.inj (State.ret_eq_of_next htwo)
    have he := Result.bit.inj (State.ret_eq_of_next helig)
    apply exec_pixel_of_some
    rcases hmode with hmode | ⟨hmode, hno⟩
    · rw [hmode, pixelOut_twoFrame, hv]
    · rw [hmode, pixelOut_auto_of_not_eligible _ _ _ _ (he.trans hno), hv]
  case triOut =>
    have hv := Result.pixel.inj (State.ret_eq_of_next htri)
    have he := Result.bit.inj (State.ret_eq_of_next helig)
    apply exec_pixel_of_some
    rw [hmode, pixelOut_auto_of_eligible _ _ _ _ he, hv]
  case completes =>
    obtain ⟨v, hv⟩ := pixelOut_isSome hmode s.fullbright s.motionCheck s.lut ps
    exact ⟨v, exec_pixel_of_some hv⟩
  case reserved => exact exec_pixel_of_none (hmode ▸ pixelOut_reserved ..)

end Sys2Proof.Machine

/-! PROOF. The mode machine (45_mode_control.md): what TOGGLE answers, and the statement on it. -/

namespace Sys2Proof.Machine

/-- The two bits of MODE hold a remainder modulo 3, so the conversion drops nothing (45_mode_control.md R213). -/
theorem State.toggleMode_mode_toNat (s : State) : s.toggleMode.mode.toNat = (s.mode.toNat + 1) % 3 := by
  have hremainder : (s.mode.toNat + 1) % 3 < 2 ^ 2 := by omega
  rw [State.toggleMode_mode, BitVec.toNat_ofNat, Nat.mod_eq_of_lt hremainder]

theorem exec_toggle {s : State} (hc : s.constructed = true) :
    exec .toggle s = .next { s with mode := s.toggleMode.mode, ret := .none } :=
  whenConstructed_next.2 ⟨hc, rfl⟩

/-- Settles O13: TOGGLE's answer names every register it writes, and `toggleMode_mode_toNat` says what is in MODE. -/
theorem toggleAdvancesTheModeOnly : Obligations.ToggleAdvancesTheModeOnly := by
  intro s hc
  exact ⟨_, exec_toggle hc, s.toggleMode_mode_toNat, rfl⟩

end Sys2Proof.Machine

/-! PROOF. The encoding and the step (30_encoding.md R81 to R83): the operation map as a set of codes, what the decoder
answers on and off it, what a step does with each kind of input, and the statements on them. -/

namespace Sys2Proof.Machine

open Sys2Proof.Claims

/-! ### The operation map -/

theorem decode_encode (i : Instr) : decode (encode i) = .ok i := by
  cases i <;> rfl

theorem encode_op_mem_tableCodes (i : Instr) : (encode i).op.toNat ∈ tableCodes := by
  cases i <;> simp [encode, tableCodes]

/-- A command that decodes has the code of the instruction it decodes to: each arm of the operation map is read back. -/
theorem encode_op_of_decode {c : Command} {i : Instr} (h : decode c = .ok i) : (encode i).op = c.op := by
  unfold decode at h
  split at h <;> cases h <;> exact BitVec.eq_of_toNat_eq (Eq.symm ‹_›)

/-- Of the 31 arms of the decoder only the last, for every other code, answers no instruction. -/
theorem decode_of_mem_tableCodes {c : Command} (h : c.op.toNat ∈ tableCodes) : ∃ i, decode c = .ok i := by
  unfold decode
  split
  case h_31 => simp_all [tableCodes]
  all_goals exact ⟨_, rfl⟩

theorem decode_of_not_mem_tableCodes {c : Command} (h : c.op.toNat ∉ tableCodes) :
    decode c = .error (.reservedOp c.op) := by
  cases hd : decode c with
  | ok i => exact absurd (encode_op_of_decode hd ▸ encode_op_mem_tableCodes i) h
  | error e =>
    unfold decode at hd
    split at hd <;> cases hd
    rfl

/-! ### What a step does with its next input -/

theorem step_of_empty {s : State} (h : s.inbox = []) : step s = .next s := by
  rw [step, h]

theorem step_of_poke {s : State} {cell : Nat} {ps : List Pixel} {rest : List Input}
    (h : s.inbox = .poke cell ps :: rest) : step s = .next ((s.setInbox rest).pokeMem cell ps) := by
  rw [step, h]

theorem step_of_decoded {s : State} {c : Command} {rest : List Input} {i : Instr} (h : s.inbox = .command c :: rest)
    (hd : decode c = .ok i) : step s = exec i (s.setInbox rest) := by
  simp only [step, h, hd]

theorem step_of_reserved {s : State} {c : Command} {rest : List Input} (h : s.inbox = .command c :: rest)
    (hc : c.op.toNat ∉ tableCodes) : step s = .refused (.reservedOp c.op) := by
  simp only [step, h, decode_of_not_mem_tableCodes hc]

/-! ### The statements -/

/-- Settles O1: each direction is a reading of the operation map. -/
theorem decodeAndEncodeAgree : Obligations.DecodeAndEncodeAgree := by
  refine ⟨decode_encode, fun c i h => encode_op_of_decode h, fun c => ⟨fun ⟨i, h⟩ => ?_, decode_of_mem_tableCodes⟩⟩
  rw [← encode_op_of_decode h]
  exact encode_op_mem_tableCodes i

/-- Settles O2: each word is looked up in the operation map. -/
theorem tableWordsDecode : Obligations.TableWordsDecode :=
  ⟨rfl, rfl, rfl, rfl, rfl, rfl, rfl, rfl⟩

/-- Settles O3. -/
theorem stepRunsTheDecodedInstruction : Obligations.StepRunsTheDecodedInstruction :=
  fun _ _ _ _ h hd => step_of_decoded h hd

/-- Settles O4. -/
theorem idleStepHoldsTheState : Obligations.IdleStepHoldsTheState :=
  fun _ h => step_of_empty h

/-- Settles O5: the poke of one pixel is one pixel write, whose cell and frame are known. -/
theorem hostWriteChangesOnlyItsCell : Obligations.HostWriteChangesOnlyItsCell := by
  intro s cell v rest h
  exact ⟨_, step_of_poke h, rfl, Memory.readPixel_writePixel_same s.mem cell v,
    fun a h0 h1 => Memory.read_writePixel_other s.mem v h0 h1⟩

/-- Settles O6. -/
theorem reservedCodesAreRefused : Obligations.ReservedCodesAreRefused :=
  fun _ _ _ h hc => step_of_reserved h hc

end Sys2Proof.Machine

/-! PROOF. The tables (40_lut_builder.md): the entries are the rounded real values, the index of BLENDENT is in range,
the order and the ends of the tables, the blend tables at the bounds of the ratio, and the statements on the LUT
Manager's operations. -/

namespace Sys2Proof.Machine

open Sys2Proof.Claims

/-! ### The entries as real values -/

theorem intensity_cast (n i : Nat) : ((intensity n i : Rat) : ℝ) = (i : ℝ) / (dimPred n : ℝ) := by
  rw [intensity]; push_cast; rfl

theorem gamma_inv_eq_div (g : Gamma) : 1 / ((g.val : Rat) : ℝ) = (g.val.den : ℝ) / (g.val.num.toNat : ℝ) := by
  rw [gamma_val_eq_div, one_div_div]

theorem gamma_num_toNat_pos (g : Gamma) : 0 < g.val.num.toNat := by
  have := gamma_num_pos g
  omega

/-- The half step below `k` is positive from `k = 1` on. -/
theorem half_step_pos {k : Nat} (hk : 1 ≤ k) : (0 : Rat) < (k : Rat) - 1 / 2 := by
  have : (1 : Rat) ≤ k := by exact_mod_cast hk
  linarith

/-- Up to the threshold the forward entry compares the linear value. -/
theorem forwardReaches_segment {n i : Nat} (hc : intensity n i ≤ Config.kFwdT) (g : Gamma) (k : Nat) :
    forwardReaches n i g k =
      decide ((k : Rat) - 1 / 2 ≤ Config.kLin * intensity n i * (dimPred n : Rat)) := if_pos hc

/-- Up to the threshold the reverse entry compares the linear value. -/
theorem reverseReaches_segment {n i : Nat} (hc : intensity n i ≤ Config.kRevT) (g : Gamma) (k : Nat) :
    reverseReaches n i g k =
      decide ((k : Rat) - 1 / 2 ≤ intensity n i / Config.kLin * (dimPred n : Rat)) := if_pos hc

/-- Beyond the threshold the forward entry compares a power of the intensity. -/
theorem forwardReaches_power {n i : Nat} (hc : ¬ intensity n i ≤ Config.kFwdT) (g : Gamma) (k : Nat) :
    forwardReaches n i g k =
      atMostPow ((((k : Rat) - 1 / 2) / (dimPred n : Rat) + Config.kB) / Config.kA) (intensity n i) g.val.den
        g.val.num.toNat := if_neg hc

/-- Beyond the threshold the reverse entry compares a power of the offset and scaled intensity. -/
theorem reverseReaches_power {n i : Nat} (hc : ¬ intensity n i ≤ Config.kRevT) (g : Gamma) (k : Nat) :
    reverseReaches n i g k =
      atMostPow (((k : Rat) - 1 / 2) / (dimPred n : Rat)) ((intensity n i + Config.kB) / Config.kA) g.val.num.toNat
        g.val.den := if_neg hc

/-- What the forward entry reaches is what the real value of R104 reaches. -/
theorem forwardReaches_iff {n : Nat} (hn : 0 < dimPred n) (i : Nat) (g : Gamma) {k : Nat} (hk : 1 ≤ k) :
    forwardReaches n i g k = true ↔ (k : ℝ) - 1 / 2 ≤ forwardValue (dimPred n) i g.val := by
  have hm : (0 : ℝ) < dimPred n := by exact_mod_cast hn
  have hmq : (0 : Rat) < dimPred n := by exact_mod_cast hn
  have hcond : intensity n i ≤ Config.kFwdT ↔ (i : ℝ) / dimPred n ≤ 0.0031308 := by
    rw [← intensity_cast, ← Rat.cast_le (K := ℝ), Config.kFwdT]; norm_num
  by_cases h : intensity n i ≤ Config.kFwdT
  · rw [forwardReaches_segment h, forwardValue, if_pos (hcond.1 h), decide_eq_true_iff, ← Rat.cast_le (K := ℝ),
      Config.kLin]
    push_cast
    rw [intensity_cast]
    norm_num
  · have hc : 0 < intensity n i := by
      have h0 : (0 : Rat) < Config.kFwdT := by norm_num [Config.kFwdT]
      exact h0.trans (not_le.1 h)
    have ht : 0 < ((k : Rat) - 1 / 2) / dimPred n + Config.kB := by
      have := div_pos (half_step_pos hk) hmq
      have hB : (0 : Rat) < Config.kB := by norm_num [Config.kB]
      linarith
    have hA : (0 : Rat) < Config.kA := by norm_num [Config.kA]
    rw [forwardReaches_power h, forwardValue, if_neg (mt hcond.2 h),
      atMostPow_iff (div_pos ht hA) hc _ (gamma_num_toNat_pos g), ← gamma_inv_eq_div, intensity_cast, Config.kA,
      Config.kB]
    push_cast
    generalize ((i : ℝ) / dimPred n) ^ (1 / ((g.val : Rat) : ℝ)) = x
    rw [div_le_iff₀ (by norm_num), ← div_le_iff₀ hm]
    constructor <;> intro h <;> linarith

/-- What the reverse entry reaches is what the real value of R106 reaches. -/
theorem reverseReaches_iff {n : Nat} (hn : 0 < dimPred n) (i : Nat) (g : Gamma) {k : Nat} (hk : 1 ≤ k) :
    reverseReaches n i g k = true ↔ (k : ℝ) - 1 / 2 ≤ reverseValue (dimPred n) i g.val := by
  have hm : (0 : ℝ) < dimPred n := by exact_mod_cast hn
  have hmq : (0 : Rat) < dimPred n := by exact_mod_cast hn
  have hcond : intensity n i ≤ Config.kRevT ↔ (i : ℝ) / dimPred n ≤ 0.04045 := by
    rw [← intensity_cast, ← Rat.cast_le (K := ℝ), Config.kRevT]; norm_num
  by_cases h : intensity n i ≤ Config.kRevT
  · rw [reverseReaches_segment h, reverseValue, if_pos (hcond.1 h), decide_eq_true_iff, ← Rat.cast_le (K := ℝ),
      Config.kLin]
    push_cast
    rw [intensity_cast]
    norm_num
  · have hc : 0 ≤ intensity n i := by unfold intensity; positivity
    have hb : 0 < (intensity n i + Config.kB) / Config.kA := by
      have hA : (0 : Rat) < Config.kA := by norm_num [Config.kA]
      have hB : (0 : Rat) < Config.kB := by norm_num [Config.kB]
      positivity
    rw [reverseReaches_power h, reverseValue, if_neg (mt hcond.2 h),
      atMostPow_iff (div_pos (half_step_pos hk) hmq) hb _ g.val.den_pos, ← gamma_val_eq_div, Config.kA, Config.kB]
    push_cast
    rw [intensity_cast, div_le_iff₀ hm]
    norm_num

/-- FWDENT's entry is the rounded clamped real value (40_lut_builder.md R104). -/
theorem forwardEntry_eq_rounded {n : Nat} (hn : 0 < dimPred n) (i : Nat) (g : Gamma) :
    (forwardEntry n i g : ℤ) = rounded (dimPred n) (forwardValue (dimPred n) i g.val) :=
  roundClamped_eq_floor _ fun _ hk _ => forwardReaches_iff hn i g hk

/-- REVENT's entry is the rounded clamped real value (40_lut_builder.md R106). -/
theorem reverseEntry_eq_rounded {n : Nat} (hn : 0 < dimPred n) (i : Nat) (g : Gamma) :
    (reverseEntry n i g : ℤ) = rounded (dimPred n) (reverseValue (dimPred n) i g.val) :=
  roundClamped_eq_floor _ fun _ hk _ => reverseReaches_iff hn i g hk

/-! ### The index of BLENDENT -/

theorem rnd_eq_floor (x : ℚ) : rnd x = ⌊x + 1 / 2⌋ := rfl

/-- The weighted average of two channel values, rounded, is a channel value (40_lut_builder.md R110 a). -/
theorem rnd_average_mem {a b m : Nat} (ha : a ≤ m) (hb : b ≤ m) (r : Ratio) :
    0 ≤ rnd ((a : Rat) * (1 - r.val) + (b : Rat) * r.val) ∧ rnd ((a : Rat) * (1 - r.val) + (b : Rat) * r.val) ≤ m := by
  have hr0 : 0 ≤ r.val := le_trans (by norm_num) r.lower
  have hr1 : 0 ≤ 1 - r.val := sub_nonneg.2 r.upper
  have ha' : (a : Rat) ≤ m := by exact_mod_cast ha
  have hb' : (b : Rat) ≤ m := by exact_mod_cast hb
  have hlow : 0 ≤ (a : Rat) * (1 - r.val) + (b : Rat) * r.val := by positivity
  have hhigh : (a : Rat) * (1 - r.val) + (b : Rat) * r.val ≤ m := by
    calc (a : Rat) * (1 - r.val) + (b : Rat) * r.val ≤ m * (1 - r.val) + m * r.val :=
          add_le_add (mul_le_mul_of_nonneg_right ha' hr1) (mul_le_mul_of_nonneg_right hb' hr0)
      _ = m := by ring
  rw [rnd_eq_floor]
  constructor
  · rw [Int.floor_nonneg]; linarith
  · rw [← Int.lt_add_one_iff, Int.floor_lt]; push_cast; linarith

theorem blendIndex_cast {n : Nat} (reverse : Table n) (r : Ratio) (i j : BitVec n) :
    (blendIndex reverse r i j : ℤ) =
      ⌊((Table.at reverse i).toNat : ℚ) * (1 - r.val) + ((Table.at reverse j).toNat : ℚ) * r.val + 1 / 2⌋ := by
  have hi := (Table.at reverse i).isLt
  have hj := (Table.at reverse j).isLt
  rw [blendIndex, Int.toNat_of_nonneg (rnd_average_mem (m := 2 ^ n) (by omega) (by omega) r).1, rnd_eq_floor]

theorem blendIndex_lt {n : Nat} (reverse : Table n) (r : Ratio) (i j : BitVec n) :
    blendIndex reverse r i j < 2 ^ n := by
  have hi := (Table.at reverse i).isLt
  have hj := (Table.at reverse j).isLt
  obtain ⟨h0, hm⟩ := rnd_average_mem (m := 2 ^ n - 1) (Nat.le_sub_one_of_lt hi) (Nat.le_sub_one_of_lt hj) r
  unfold blendIndex
  omega

/-- BLENDENT's index as a channel value: the conversion drops nothing. -/
theorem blendIndex_channel {n : Nat} (reverse : Table n) (r : Ratio) (i j : BitVec n) :
    ((BitVec.ofNat n (blendIndex reverse r i j)).toNat : ℤ) =
      ⌊((Table.at reverse i).toNat : ℚ) * (1 - r.val) + ((Table.at reverse j).toNat : ℚ) * r.val + 1 / 2⌋ := by
  rw [BitVec.toNat_ofNat, Nat.mod_eq_of_lt (blendIndex_lt reverse r i j), blendIndex_cast]

/-- An index that is a channel value already is where BLENDENT reads. -/
theorem blendEntry_of_index {n : Nat} {forward reverse : Table n} {r : Ratio} {i j k : BitVec n}
    (h : ((Table.at reverse i).toNat : ℚ) * (1 - r.val) + ((Table.at reverse j).toNat : ℚ) * r.val = k.toNat) :
    blendEntry forward reverse r i j = Table.at forward k := by
  have hindex : (blendIndex reverse r i j : ℤ) = k.toNat := by
    rw [blendIndex_cast, h, Int.floor_eq_iff]
    push_cast
    constructor <;> linarith
  rw [blendEntry, Int.ofNat_inj.1 hindex, BitVec.ofNat_toNat, BitVec.setWidth_eq]

/-- Equal samples blend to the round trip through the tables, whatever the ratio (40_lut_builder.md R113). -/
theorem blendEntry_diagonal {n : Nat} (forward reverse : Table n) (r : Ratio) (i : BitVec n) :
    blendEntry forward reverse r i i = Table.at forward (Table.at reverse i) :=
  blendEntry_of_index (by ring)

/-- At ratio 1 the older sample has no weight (40_lut_builder.md R110 c). -/
theorem blendEntry_of_ratio_one {n : Nat} (forward reverse : Table n) {r : Ratio} (hr : r.val = 1) (i j : BitVec n) :
    blendEntry forward reverse r i j = Table.at forward (Table.at reverse j) :=
  blendEntry_of_index (by rw [hr]; ring)

/-- At ratio 1/2 the samples have equal weight (40_lut_builder.md R110 d). -/
theorem blendEntry_comm_of_ratio_half {n : Nat} (forward reverse : Table n) {r : Ratio} (hr : r.val = 1 / 2)
    (i j : BitVec n) : blendEntry forward reverse r i j = blendEntry forward reverse r j i := by
  have hindex : blendIndex reverse r i j = blendIndex reverse r j i := by
    unfold blendIndex
    rw [hr]
    congr 2
    ring
  rw [blendEntry, blendEntry, hindex]

/-! ### The table sets of the statements -/

theorem widthOf_tables (n : Nat) (hn : 0 < dimPred n) (g : Gamma) (r : Ratio) :
    WidthOf n (forwardTable n g) (reverseTable n g) (blendTable (forwardTable n g) (reverseTable n g) r) g.val
      r.val := by
  refine ⟨fun i => ⟨?_, ?_⟩, fun i j =>
    ⟨_, blendIndex_channel _ r i j, BlendTable.at_blendTable _ _ _ _ _⟩⟩
  · rw [Table.toNat_at_forwardTable]
    exact forwardEntry_eq_rounded hn i.toNat g
  · rw [Table.toNat_at_reverseTable]
    exact reverseEntry_eq_rounded hn i.toNat g

/-- The tables of BUILD are those of its parameters (40_lut_builder.md R100). -/
theorem tablesOf_buildLut (g : Gamma) (r : Ratio) : TablesOf (buildLut g r) g.val r.val :=
  ⟨widthOf_tables 5 (by decide) g r, widthOf_tables 6 (by decide) g r⟩

/-! ### The order of the entries -/

theorem atMostPow_mono {t b b' : Rat} (hb : 0 ≤ b) (hle : b ≤ b') {p q : Nat} (h : atMostPow t b p q = true) :
    atMostPow t b' p q = true := by
  rw [atMostPow, decide_eq_true_iff] at h ⊢
  exact h.trans (pow_le_pow_left₀ hb hle p)

theorem intensity_nonneg (n i : Nat) : 0 ≤ intensity n i := by
  unfold intensity; positivity

theorem intensity_zero (n : Nat) : intensity n 0 = 0 := by
  simp [intensity]

theorem intensity_mono (n : Nat) {i j : Nat} (h : i ≤ j) : intensity n i ≤ intensity n j := by
  unfold intensity
  gcongr

/-- An intensity back on the scale of the table. -/
theorem intensity_mul_dimPred {n : Nat} (hn : 0 < dimPred n) (i : Nat) : intensity n i * (dimPred n : Rat) = i :=
  div_mul_cancel₀ _ (by exact_mod_cast hn.ne')

/-- In a table of at most 64 entries the forward threshold lies below the first step, so the linear segment is index 0
and reaches nothing. -/
theorem forwardReaches_linear {n i k : Nat} {g : Gamma} (hn : 0 < dimPred n) (hn' : dimPred n ≤ 63) (hk : 1 ≤ k)
    (hc : intensity n i ≤ Config.kFwdT) : forwardReaches n i g k = false := by
  have hm : (dimPred n : Rat) ≤ 63 := by exact_mod_cast hn'
  have hi : (i : Rat) < 1 := by
    rw [← intensity_mul_dimPred hn i]
    calc intensity n i * (dimPred n : Rat) ≤ Config.kFwdT * 63 := by
          refine mul_le_mul hc hm (by positivity) ?_
          norm_num [Config.kFwdT]
      _ < 1 := by norm_num [Config.kFwdT]
  have hi0 : i = 0 := by
    have : i < 1 := by exact_mod_cast hi
    omega
  rw [forwardReaches_segment hc, hi0, intensity_zero, mul_zero, zero_mul, decide_eq_false_iff_not, not_le]
  exact half_step_pos hk

/-- In a table of at most 64 entries the linear segment of the reverse curve stays below the first half step. -/
theorem reverseReaches_linear {n i k : Nat} {g : Gamma} (hn' : dimPred n ≤ 63) (hk : 1 ≤ k)
    (hc : intensity n i ≤ Config.kRevT) : reverseReaches n i g k = false := by
  have hm : (dimPred n : Rat) ≤ 63 := by exact_mod_cast hn'
  have hk' : (1 : Rat) ≤ k := by exact_mod_cast hk
  have hlow : intensity n i / Config.kLin * (dimPred n : Rat) < 1 / 2 := by
    calc intensity n i / Config.kLin * (dimPred n : Rat) ≤ Config.kRevT / Config.kLin * 63 := by
          refine mul_le_mul (div_le_div_of_nonneg_right hc ?_) hm (by positivity) ?_ <;>
            norm_num [Config.kLin, Config.kRevT]
      _ < 1 / 2 := by norm_num [Config.kLin, Config.kRevT]
  rw [reverseReaches_segment hc, decide_eq_false_iff_not, not_le]
  linarith

theorem forwardEntry_mono {n : Nat} (hn : 0 < dimPred n) (hn' : dimPred n ≤ 63) (g : Gamma) {i j : Nat}
    (h : i ≤ j) : forwardEntry n i g ≤ forwardEntry n j g := by
  refine roundClamped_mono _ fun k hk hreach => ?_
  have hci : ¬ intensity n i ≤ Config.kFwdT := fun hc => by
    simp [forwardReaches_linear hn hn' hk hc] at hreach
  have hcj : ¬ intensity n j ≤ Config.kFwdT := fun hc => hci ((intensity_mono n h).trans hc)
  rw [forwardReaches_power hci] at hreach
  rw [forwardReaches_power hcj]
  exact atMostPow_mono (intensity_nonneg n i) (intensity_mono n h) hreach

theorem reverseEntry_mono {n : Nat} (hn' : dimPred n ≤ 63) (g : Gamma) {i j : Nat} (h : i ≤ j) :
    reverseEntry n i g ≤ reverseEntry n j g := by
  refine roundClamped_mono _ fun k hk hreach => ?_
  have hci : ¬ intensity n i ≤ Config.kRevT := fun hc => by
    simp [reverseReaches_linear hn' hk hc] at hreach
  have hcj : ¬ intensity n j ≤ Config.kRevT := fun hc => hci ((intensity_mono n h).trans hc)
  have hA : (0 : Rat) ≤ Config.kA := by norm_num [Config.kA]
  have hB : (0 : Rat) ≤ Config.kB := by norm_num [Config.kB]
  rw [reverseReaches_power hci] at hreach
  rw [reverseReaches_power hcj]
  refine atMostPow_mono (div_nonneg (add_nonneg (intensity_nonneg n i) hB) hA) ?_ hreach
  exact div_le_div_of_nonneg_right (by linarith [intensity_mono n h]) hA

/-- The 1D tables of one width are non-decreasing: an index in a linear segment has entry 0, and beyond it the power is
monotone (40_lut_builder.md R112). -/
theorem tables_mono {n : Nat} (hn : 0 < dimPred n) (hn' : dimPred n ≤ 63) (g : Gamma) {i j : BitVec n}
    (h : i.toNat ≤ j.toNat) :
    (Table.at (forwardTable n g) i).toNat ≤ (Table.at (forwardTable n g) j).toNat ∧
      (Table.at (reverseTable n g) i).toNat ≤ (Table.at (reverseTable n g) j).toNat := by
  simp only [Table.toNat_at_forwardTable, Table.toNat_at_reverseTable]
  exact ⟨forwardEntry_mono hn hn' g h, reverseEntry_mono hn' g h⟩

/-! ### The ends of the tables -/

theorem roundClamped_eq_zero {reaches : Nat → Bool} (m : Nat) (h : ∀ k, 1 ≤ k → reaches k = false) :
    roundClamped reaches m = 0 := by
  by_contra hne
  have hr := roundClamped_reaches reaches m hne
  rw [h _ (by omega)] at hr
  cases hr

theorem roundClamped_eq_bound {reaches : Nat → Bool} {m : Nat} (h : reaches m = true) :
    roundClamped reaches m = m := by
  cases m with
  | zero => rfl
  | succ m => exact if_pos h

theorem intensity_last {n : Nat} (hn : 0 < dimPred n) : intensity n (dimPred n) = 1 :=
  div_self (by exact_mod_cast hn.ne')

theorem forwardEntry_zero {n : Nat} (hn : 0 < dimPred n) (hn' : dimPred n ≤ 63) (g : Gamma) :
    forwardEntry n 0 g = 0 := by
  refine roundClamped_eq_zero _ fun k hk => forwardReaches_linear hn hn' hk ?_
  rw [intensity_zero]
  norm_num [Config.kFwdT]

theorem reverseEntry_zero {n : Nat} (hn' : dimPred n ≤ 63) (g : Gamma) : reverseEntry n 0 g = 0 := by
  refine roundClamped_eq_zero _ fun k hk => reverseReaches_linear hn' hk ?_
  rw [intensity_zero]
  norm_num [Config.kRevT]

/-- A base of at most 1 is reached by the power of 1. -/
theorem atMostPow_one {t : Rat} (h0 : 0 ≤ t) (h1 : t ≤ 1) (p q : Nat) : atMostPow t 1 p q = true := by
  rw [atMostPow, decide_eq_true_iff, one_pow]
  exact pow_le_one₀ h0 h1

/-- The last half step of a table lies between 0 and 1. -/
theorem last_half_step {n : Nat} (hn : 0 < dimPred n) :
    0 ≤ ((dimPred n : Rat) - 1 / 2) / (dimPred n : Rat) ∧ ((dimPred n : Rat) - 1 / 2) / (dimPred n : Rat) ≤ 1 := by
  have hm : (0 : Rat) < dimPred n := by exact_mod_cast hn
  exact ⟨(div_pos (half_step_pos hn) hm).le, (div_le_one hm).2 (by linarith)⟩

theorem forwardEntry_last {n : Nat} (hn : 0 < dimPred n) (g : Gamma) : forwardEntry n (dimPred n) g = dimPred n := by
  obtain ⟨h0, h1⟩ := last_half_step hn
  refine roundClamped_eq_bound ?_
  rw [forwardReaches_power (by rw [intensity_last hn]; norm_num [Config.kFwdT]), intensity_last hn, Config.kA,
    Config.kB]
  exact atMostPow_one (by positivity) (by rw [div_le_one (by norm_num)]; linarith) _ _

theorem reverseEntry_last {n : Nat} (hn : 0 < dimPred n) (g : Gamma) : reverseEntry n (dimPred n) g = dimPred n := by
  obtain ⟨h0, h1⟩ := last_half_step hn
  refine roundClamped_eq_bound ?_
  have hbase : ((1 : Rat) + Config.kB) / Config.kA = 1 := by norm_num [Config.kA, Config.kB]
  rw [reverseReaches_power (by rw [intensity_last hn]; norm_num [Config.kRevT]), intensity_last hn, hbase]
  exact atMostPow_one h0 h1 _ _

/-- The three tables of one width have 0 at their first entry and `dim - 1` at their last. -/
theorem table_ends {n : Nat} (hn : 0 < dimPred n) (hn' : dimPred n ≤ 63) (g : Gamma) (r : Ratio) {last : BitVec n}
    (hlast : last.toNat = dimPred n) :
    Table.at (forwardTable n g) 0 = 0 ∧ Table.at (forwardTable n g) last = last ∧
    Table.at (reverseTable n g) 0 = 0 ∧ Table.at (reverseTable n g) last = last ∧
    BlendTable.at (blendTable (forwardTable n g) (reverseTable n g) r) 0 0 = 0 ∧
    BlendTable.at (blendTable (forwardTable n g) (reverseTable n g) r) last last = last := by
  have hf0 : Table.at (forwardTable n g) 0 = 0 :=
    BitVec.eq_of_toNat_eq ((Table.toNat_at_forwardTable n g 0).trans (by simp [forwardEntry_zero hn hn' g]))
  have hfl : Table.at (forwardTable n g) last = last :=
    BitVec.eq_of_toNat_eq ((Table.toNat_at_forwardTable n g last).trans (by simp [hlast, forwardEntry_last hn g]))
  have hr0 : Table.at (reverseTable n g) 0 = 0 :=
    BitVec.eq_of_toNat_eq ((Table.toNat_at_reverseTable n g 0).trans (by simp [reverseEntry_zero hn' g]))
  have hrl : Table.at (reverseTable n g) last = last :=
    BitVec.eq_of_toNat_eq ((Table.toNat_at_reverseTable n g last).trans (by simp [hlast, reverseEntry_last hn g]))
  refine ⟨hf0, hfl, hr0, hrl, ?_, ?_⟩
  · rw [BlendTable.at_blendTable, blendEntry_diagonal, hr0, hf0]
  · rw [BlendTable.at_blendTable, blendEntry_diagonal, hrl, hfl]

/-! ### What each operation answers -/

theorem exec_build (gamma ratio : Rat) (s : State) :
    exec (.build gamma ratio) s = .next { s with
      gamma := clampGamma gamma, ratio := clampRatio ratio, lut := buildLut (clampGamma gamma) (clampRatio ratio),
      ret := .tables (buildLut (clampGamma gamma) (clampRatio ratio)) } := rfl

theorem exec_clampg (gamma : Rat) (s : State) :
    exec (.clampg gamma) s = .next { s with ret := .real (clampGamma gamma).val } := rfl

theorem exec_clampr (ratio : Rat) (s : State) :
    exec (.clampr ratio) s = .next { s with ret := .real (clampRatio ratio).val } := rfl

/-- After BUILD the tables are those of the clamped operands. -/
theorem lut_of_exec_build {gamma ratio : Rat} {s t : State} (h : exec (.build gamma ratio) s = .next t) :
    t.lut = buildLut (clampGamma gamma) (clampRatio ratio) := by
  rw [exec_build] at h
  exact (congrArg State.lut (Host.Outcome.next.inj h)).symm

/-! ### The statements -/

/-- Settles O27: the tables of the clamped parameters are those of the statement by `tablesOf_buildLut`. -/
theorem buildPublishesTheTables : Obligations.BuildPublishesTheTables := by
  intro gamma ratio s
  exact ⟨_, exec_build gamma ratio s, clampGamma_val gamma, clampRatio_val ratio, tablesOf_buildLut _ _, rfl⟩

/-- Settles O28. -/
theorem clampgFloorsAtOne : Obligations.ClampgFloorsAtOne := by
  intro gamma s
  rw [exec_clampg, clampGamma_val]

/-- Settles O29. -/
theorem clamprClampsToTheUnitHalf : Obligations.ClamprClampsToTheUnitHalf := by
  intro ratio s
  rw [exec_clampr, clampRatio_val]

/-- Settles O30, by `forwardEntry_eq_rounded` at the two widths. -/
theorem fwdentIsTheRealForwardEntry : Obligations.FwdentIsTheRealForwardEntry := fun g _ =>
  ⟨fun i => ⟨_, rfl, forwardEntry_eq_rounded (n := 5) (by decide) i.toNat g⟩,
    fun i => ⟨_, rfl, forwardEntry_eq_rounded (n := 6) (by decide) i.toNat g⟩⟩

/-- Settles O31, by `reverseEntry_eq_rounded` at the two widths. -/
theorem reventIsTheRealReverseEntry : Obligations.ReventIsTheRealReverseEntry := fun g _ =>
  ⟨fun i => ⟨_, rfl, reverseEntry_eq_rounded (n := 5) (by decide) i.toNat g⟩,
    fun i => ⟨_, rfl, reverseEntry_eq_rounded (n := 6) (by decide) i.toNat g⟩⟩

/-- Settles O32, by `blendIndex_channel` at the two widths. -/
theorem blendentAveragesThroughTheTables : Obligations.BlendentAveragesThroughTheTables := fun r _ =>
  ⟨fun i j _ reverse => ⟨_, blendIndex_channel reverse r i j, rfl⟩,
    fun i j _ reverse => ⟨_, blendIndex_channel reverse r i j, rfl⟩⟩

/-- Settles O33, by `tables_mono` at the two widths. -/
theorem builtTablesAreMonotone : Obligations.BuiltTablesAreMonotone := by
  intro gamma ratio s t h
  rw [lut_of_exec_build h]
  exact ⟨fun _ _ hij => tables_mono (by decide) (by decide) _ hij,
    fun _ _ hij => tables_mono (by decide) (by decide) _ hij⟩

/-- Settles O34, by `table_ends` at the two widths. -/
theorem builtTablesHaveFixedEnds : Obligations.BuiltTablesHaveFixedEnds := by
  intro gamma ratio s t h
  rw [lut_of_exec_build h]
  obtain ⟨f0, fl, r0, rl, b0, bl⟩ :=
    table_ends (n := 5) (by decide) (by decide) (clampGamma gamma) (clampRatio ratio) (last := 31) rfl
  obtain ⟨f0', fl', r0', rl', b0', bl'⟩ :=
    table_ends (n := 6) (by decide) (by decide) (clampGamma gamma) (clampRatio ratio) (last := 63) rfl
  exact ⟨f0, fl, r0, rl, b0, bl, f0', fl', r0', rl', b0', bl'⟩

/-- Settles O35: equal weights times equal samples add up to the sample, whatever the ratio. -/
theorem blendDiagonalIsTheRoundTrip : Obligations.BlendDiagonalIsTheRoundTrip := by
  intro gamma ratio s t h
  rw [lut_of_exec_build h]
  exact ⟨fun i => (BlendTable.at_blendTable _ _ _ _ _).trans (blendEntry_diagonal _ _ _ i),
    fun i => (BlendTable.at_blendTable _ _ _ _ _).trans (blendEntry_diagonal _ _ _ i)⟩

/-- Settles O36: the clamped ratio is 1 or 1/2. -/
theorem blendTableAtTheRatioBounds : Obligations.BlendTableAtTheRatioBounds := by
  intro gamma ratio s t h
  rw [lut_of_exec_build h]
  refine ⟨fun hone => ?_, fun hhalf => ?_⟩
  · have hr : (clampRatio ratio).val = 1 := by
      rw [clampRatio_val, min_eq_right (le_max_of_le_left hone)]
    exact ⟨fun i j => (BlendTable.at_blendTable _ _ _ _ _).trans (blendEntry_of_ratio_one _ _ hr i j),
      fun i j => (BlendTable.at_blendTable _ _ _ _ _).trans (blendEntry_of_ratio_one _ _ hr i j)⟩
  · have hr : (clampRatio ratio).val = 1 / 2 := by
      rw [clampRatio_val, max_eq_right hhalf, min_eq_left (by norm_num)]
    simp only [buildLut, BlendTable.at_blendTable]
    exact ⟨blendEntry_comm_of_ratio_half _ _ hr, blendEntry_comm_of_ratio_half _ _ hr⟩

/-- Settles O10: the tables of the default parameters by `tablesOf_buildLut`, the other fields as reset sets them. -/
theorem resetLeavesTheDefaults : Obligations.ResetLeavesTheDefaults :=
  ⟨rfl, rfl, tablesOf_buildLut Config.defaultGamma Config.defaultRatio, rfl, rfl, rfl, rfl, rfl, rfl, rfl, rfl⟩

end Sys2Proof.Machine

/-! PROOF. The commands (45_mode_control.md): what sanitising leaves of a configuration, what CONSTRUCT, RELOAD and
STATUS answer, and the statements on them and on TOGGLE; and that PACK and UNPACK are inverse (41_blend_lookup.md). -/

namespace Sys2Proof.Machine

open Sys2Proof.Claims

/-! ### Sanitising -/

@[simp] theorem finiteOr_finite (q d : Rat) : finiteOr (.finite q) d = q := rfl

theorem finiteOr_of_not_finite {r : ConfigReal} (h : ∀ q, r ≠ .finite q) (d : Rat) : finiteOr r d = d := by
  cases r with
  | finite q => exact absurd rfl (h q)
  | nan => rfl
  | posInf => rfl
  | negInf => rfl

/-- The codes of the modes are their numbers (45_mode_control.md R216). -/
theorem saneMode_of_legal {m : Int} (h : 0 ≤ m ∧ m ≤ 2) : ((saneMode m).toNat : ℤ) = m := by
  obtain ⟨h0, h2⟩ := h
  interval_cases m <;> rfl

theorem saneMode_of_illegal {m : Int} (h : m < 0 ∨ 2 < m) : saneMode m = 2 := by
  rw [saneMode, if_neg (by omega), if_neg (by omega), if_neg (by omega), Config.defaultMode]

theorem saneMode_ne_three (m : Int) : saneMode m ≠ 3 := by
  unfold saneMode
  split_ifs <;> decide

/-- A configured state holds the sanitised configuration, field by field. -/
theorem sanitised_of_fields {cfg : Cfg} {t : State} (hg : t.gamma = clampGamma (saneGamma cfg))
    (hr : t.ratio = clampRatio (saneRatio cfg)) (hm : t.mode = saneMode cfg.mode) (hf : t.fullbright = cfg.fullbright)
    (hc : t.motionCheck = cfg.motionCheck) : Sanitised cfg t := by
  rw [Sanitised, hg, hr, hm, clampGamma_val, clampRatio_val, saneGamma, saneRatio]
  refine ⟨fun q h => ?_, fun h => ?_, fun q h => ?_, fun h => ?_, saneMode_of_legal, saneMode_of_illegal, hf, hc⟩
  · rw [h, finiteOr_finite]
  · rw [finiteOr_of_not_finite h, Config.defaultGamma]; norm_num
  · rw [h, finiteOr_finite]
  · rw [finiteOr_of_not_finite h, Config.defaultRatio]; norm_num

/-! ### What each command answers -/

theorem exec_construct (cfg : Cfg) (s : State) :
    exec (.construct cfg) s = .next ((((s.configure cfg).resizeStore 0 0).markConstructed).returning .none) := rfl

theorem exec_reload {s : State} (hc : s.constructed = true) (cfg : Cfg) :
    exec (.reload cfg) s = .next ((s.configure cfg).returning .none) := if_pos hc

theorem exec_status {s : State} (hc : s.constructed = true) :
    exec .status s = .next { s with ret := .status s.mode s.gamma.val s.ratio.val s.motionCheck } := if_pos hc

theorem whenConstructed_refused {s : State} (hc : s.constructed = false) (r : Step) :
    whenConstructed s r = .refused .notConstructed := by
  simp [whenConstructed, hc]

/-- TOGGLE reads no result and leaves none. -/
theorem exec_toggle_returning {s : State} (hc : s.constructed = true) (r : Result) :
    exec .toggle (s.returning r) = .next (s.toggleMode.returning .none) := exec_toggle (s := s.returning r) hc

/-- Three steps of the mode machine from a legal mode lead back to it. -/
theorem toggleMode_three {s : State} (h : s.mode ≠ 3) : s.toggleMode.toggleMode.toggleMode = s := by
  have hcycle : ∀ m : BitVec 2, m ≠ 3 → BitVec.ofNat 2 (((BitVec.ofNat 2 (((BitVec.ofNat 2 ((m.toNat + 1) % 3)).toNat
      + 1) % 3)).toNat + 1) % 3) = m := by decide
  have hmode : s.toggleMode.toggleMode.toggleMode.mode = s.mode := hcycle s.mode h
  calc s.toggleMode.toggleMode.toggleMode = { s with mode := s.toggleMode.toggleMode.toggleMode.mode } := rfl
    _ = s := by rw [hmode]

/-! ### The statements -/

/-- Settles O11: CONSTRUCT's answer is the configured state, resized to nothing and marked. -/
theorem constructResetsTheEngine : Obligations.ConstructResetsTheEngine := by
  intro cfg s
  exact ⟨_, exec_construct cfg s, rfl, sanitised_of_fields rfl rfl rfl rfl rfl, tablesOf_buildLut _ _, rfl, rfl, rfl,
    rfl, rfl, rfl⟩

/-- Settles O12: RELOAD's answer is the configured state. -/
theorem reloadReplacesTheParametersOnly : Obligations.ReloadReplacesTheParametersOnly := by
  intro cfg s hc
  exact ⟨_, exec_reload hc cfg, sanitised_of_fields rfl rfl rfl rfl rfl, tablesOf_buildLut _ _, rfl⟩

/-- Settles O14: each TOGGLE is a step of the mode machine, and three lead back. -/
theorem threeTogglesReturnTheMode : Obligations.ThreeTogglesReturnTheMode := by
  intro s hc hmode
  change runAll [.toggle, .toggle, .toggle] (s.returning s.ret) = .next (s.returning .none)
  have hc1 : s.toggleMode.constructed = true := hc
  have hc2 : s.toggleMode.toggleMode.constructed = true := hc
  rw [runAll_cons, exec_toggle_returning hc, andThen_next_eq, runAll_cons, exec_toggle_returning hc1, andThen_next_eq,
    runAll_cons, exec_toggle_returning hc2, andThen_next_eq, toggleMode_three hmode]
  rfl

/-- Settles O15. -/
theorem statusReportsTheEffectiveValues : Obligations.StatusReportsTheEffectiveValues :=
  fun _ hc => exec_status hc

/-- Settles O16: the four commands are guarded alike. -/
theorem commandsBeforeConstructAreRefused : Obligations.CommandsBeforeConstructAreRefused :=
  fun _ _ _ hc => ⟨whenConstructed_refused hc _, whenConstructed_refused hc _, whenConstructed_refused hc _,
    whenConstructed_refused hc _⟩

/-- Settles O47: a pixel is the packing of its fields, and fields are those of their packing, as numbers. -/
theorem packAndUnpackAreInverse : Obligations.PackAndUnpackAreInverse := by
  refine ⟨fun p r g b s h => ?_, fun p r g b s h => ?_⟩
  · obtain ⟨rfl, rfl, rfl⟩ := Result.channels.inj (State.ret_eq_of_next h)
    have hpack : packPixel (redOf p) (greenOf p) (blueOf p) = p := by
      apply BitVec.eq_of_toNat_eq
      rw [packPixel_toNat, redOf_toNat, greenOf_toNat, blueOf_toNat, red, green, blue]
      omega
    rw [exec_pack, hpack]
  · obtain rfl := Result.pixel.inj (State.ret_eq_of_next h)
    have hr := r.isLt
    have hg := g.isLt
    have hb := b.isLt
    have hsum := packPixel_toNat r g b
    have hred : redOf (packPixel r g b) = r := BitVec.eq_of_toNat_eq (by rw [redOf_toNat, red]; omega)
    have hgreen : greenOf (packPixel r g b) = g := BitVec.eq_of_toNat_eq (by rw [greenOf_toNat, green]; omega)
    have hblue : blueOf (packPixel r g b) = b := BitVec.eq_of_toNat_eq (by rw [blueOf_toNat, blue]; omega)
    rw [exec_unpack, hred, hgreen, hblue]

end Sys2Proof.Machine

/-! PROOF. The history store (42_history_store.md): what RESIZE and SEED answer, when its operations are refused, the
frames at the five ages over a series of pushes, and the statements on the store. -/

namespace Sys2Proof.Machine

open Sys2Proof.Claims

/-! ### The pixels of an age, as the statements write them -/

theorem historyPixel_eq_histAt (s : State) (age x y : Nat) : historyPixel s age x y = s.histAt age x y := rfl

/-- A position of the grid has its number within a slot. -/
theorem State.index_lt {s : State} {x y : Nat} (hx : x < s.lastW.toNat) (hy : y < s.lastH.toNat) :
    y * s.lastW.toNat + x < s.slotSize := by
  calc y * s.lastW.toNat + x < (y + 1) * s.lastW.toNat := by rw [Nat.add_mul]; omega
    _ ≤ s.lastH.toNat * s.lastW.toNat := Nat.mul_le_mul_right _ hy
    _ = s.slotSize := Nat.mul_comm _ _

theorem State.slotFrame_position {s : State} {x y : Nat} (hx : x < s.lastW.toNat) (hy : y < s.lastH.toNat)
    (age : Nat) : (s.slotFrame (slotOf s.base age))[y * s.lastW.toNat + x]? = historyPixel s age x y := by
  rw [State.slotFrame_getElem? s _ (State.index_lt hx hy), historyPixel_eq_histAt, State.histAt, State.histCell,
    Nat.add_assoc]

/-- A store of five copies of a frame holds it in every slot (42_history_store.md R153). -/
theorem State.slotFrame_of_seeded {s : State} {frame : List Pixel} (hf : frame.length = s.slotSize)
    (hh : s.hist = frame ++ frame ++ frame ++ frame ++ frame) {a : Nat} (ha : a < 5) : s.slotFrame a = frame := by
  have hl : s.hist.length = 5 * s.slotSize := by
    rw [hh, List.length_append, List.length_append, List.length_append, List.length_append, hf]
    omega
  refine State.slotFrame_eq hl ha hf fun k hk => ?_
  rw [hh, ← hf, seeded_getElem frame a k ha (hf ▸ hk)]

/-! ### What each operation answers -/

theorem exec_resize (w h : Dim) (s : State) :
    exec (.resize w h) s = .next ((s.resizeStore w h).returning .none) := rfl

theorem exec_seed {frame : List Pixel} {s : State} (hseed : s.seeded = false) (hf : frame.length = s.slotSize) :
    exec (.seed frame) s = .next ((s.seedStore frame).returning .none) :=
  andThen_next.2 ⟨_, seedFrame_next.2 ⟨hseed, hf, rfl⟩, rfl⟩

theorem andThen_refused {r : Step} {e : Refusal} (h : r = .refused e) (f : State → Step) :
    andThen r f = .refused e := by
  rw [h]; rfl

theorem exec_seed_of_seeded {s : State} (hseed : s.seeded = true) (frame : List Pixel) :
    exec (.seed frame) s = .refused .alreadySeeded :=
  andThen_refused (if_pos hseed) _

theorem exec_seed_of_size {s : State} (hseed : s.seeded = false) {frame : List Pixel}
    (hf : frame.length ≠ s.slotSize) : exec (.seed frame) s = .refused .frameSize :=
  andThen_refused (by rw [seedFrame, if_neg (by simp [hseed]), if_neg hf]) _

theorem exec_pushpx_of_unseeded {s : State} (hseed : s.seeded = false) (x y : Dim) (v : Pixel) :
    exec (.pushpx x y v) s = .refused .unseeded :=
  andThen_refused (if_neg (by simp [hseed])) _

theorem exec_pushpx_of_outside {s : State} (hseed : s.seeded = true) {x y : Dim}
    (hxy : s.lastW.toNat ≤ x.toNat ∨ s.lastH.toNat ≤ y.toNat) (v : Pixel) :
    exec (.pushpx x y v) s = .refused .outsideHistory :=
  andThen_refused (by rw [pushPixel, if_pos hseed, if_neg (by omega)]) _

theorem exec_advance_of_unseeded {s : State} (hseed : s.seeded = false) : exec .advance s = .refused .unseeded :=
  andThen_refused (if_neg (by simp [hseed])) _

theorem exec_atAge_of_unseeded {s : State} (hseed : s.seeded = false) (age : Nat) :
    exec (.atAge age) s = .refused .unseeded :=
  if_neg (by simp [hseed])

theorem exec_atAge_of_range {s : State} (hseed : s.seeded = true) {age : Nat} (hage : age = 0 ∨ 5 < age) :
    exec (.atAge age) s = .refused .ageRange := by
  have hbad : ¬ ageOk age = true := by
    simp only [ageOk, Bool.and_eq_true, decide_eq_true_iff, Config.depth]
    omega
  change execAtAge age s = _
  rw [execAtAge, if_pos hseed, if_neg hbad]

/-- AT answers the frame that the slot of the age holds. -/
theorem exec_atAge_of_slotFrame {s : State} (hseed : s.seeded = true) (hl : s.hist.length = 5 * s.slotSize) {age : Nat}
    (h1 : 1 ≤ age) (h5 : age ≤ 5) {frame : List Pixel} (hframe : s.slotFrame (slotOf s.base age) = frame) :
    exec (.atAge age) s = .next { s with ret := .frame frame } := by
  rw [exec_atAge hseed hl h1 h5, hframe]

/-! ### The frames at the five ages -/

/-- A seeded store of `w` by `h` pixels that holds the frames `f1` to `f5` at the ages 1 to 5. -/
structure AgesHold (w h : Nat) (s : State) (f1 f2 f3 f4 f5 : List Pixel) : Prop where
  seeded : s.seeded = true
  width : s.lastW.toNat = w
  height : s.lastH.toNat = h
  size : s.hist.length = 5 * s.slotSize
  age1 : s.slotFrame (slotOf s.base 1) = f1
  age2 : s.slotFrame (slotOf s.base 2) = f2
  age3 : s.slotFrame (slotOf s.base 3) = f3
  age4 : s.slotFrame (slotOf s.base 4) = f4
  age5 : s.slotFrame (slotOf s.base 5) = f5

/-- SEED puts its frame at every age. -/
theorem agesHold_seed {frame : List Pixel} {s : State} (hf : frame.length = s.slotSize) :
    AgesHold s.lastW.toNat s.lastH.toNat ((s.seedStore frame).returning .none) frame frame frame frame frame := by
  have hslot : ∀ age, ((s.seedStore frame).returning .none).slotFrame (slotOf s.base age) = frame :=
    fun age => State.slotFrame_of_seeded (s := (s.seedStore frame).returning .none) hf rfl (slotOf_lt s.base age)
  refine ⟨rfl, rfl, rfl, ?_, hslot 1, hslot 2, hslot 3, hslot 4, hslot 5⟩
  simp only [State.returning_hist, State.seedStore_hist, List.length_append, hf]
  change _ = 5 * s.slotSize
  omega

/-- A push of a whole frame moves every frame one age on and puts the new one at age 1 (42_history_store.md R157). -/
theorem agesHold_push {w h : Nat} {s : State} {f1 f2 f3 f4 f5 frame : List Pixel}
    (hs : AgesHold w h s f1 f2 f3 f4 f5) (hf : frame.length = w * h) :
    ∃ t, runAll (pushFrame w h frame) s = .next t ∧ AgesHold w h t frame f1 f2 f3 f4 := by
  obtain ⟨hseed, rfl, rfl, hsize, rfl, rfl, rfl, rfl, rfl⟩ := hs
  obtain ⟨t, hrun, ht, hlen, hnew, hkeep⟩ := runAll_pushFrame hseed hsize hf
  obtain ⟨hyoungest, holder⟩ := slotOf_advanceBase s
  have hbase : t.base = s.advanceBase.base := by rw [ht]
  have hkept : ∀ age, 1 ≤ age → age ≤ 4 →
      t.slotFrame (slotOf t.base (age + 1)) = s.slotFrame (slotOf s.base age) := by
    intro age h1 h4
    rw [hbase, holder age h1 h4, hkeep _ (slotOf_lt s.base age) (slotOf_ne_pushSlot s.base h1 h4)]
  refine ⟨t, hrun, ?_, ?_, ?_, ?_, ?_, hkept 1 (by decide) (by decide), hkept 2 (by decide) (by decide),
    hkept 3 (by decide) (by decide), hkept 4 (by decide) (by decide)⟩
  · rw [ht]; exact hseed
  · rw [ht]
  · rw [ht]
  · rw [hlen, ht]; exact hsize
  · rw [hbase, hyoungest, ← pushSlot_eq_slotOf_five, hnew]

theorem runAll_append_of_next {is : List Instr} {s t : State} (h : runAll is s = .next t) (js : List Instr) :
    runAll (is ++ js) s = runAll js t := by
  rw [runAll_append, h, andThen_next_eq]

/-! ### The statements -/

/-- Settles O37. -/
theorem resizeUnseedsTheStore : Obligations.ResizeUnseedsTheStore := by
  intro w h s
  refine ⟨_, exec_resize w h s, ?_, rfl⟩
  rw [State.returning_hist, State.resizeStore_hist, List.length_map, List.length_range]

/-- Settles O38: each of the five slots holds the frame, so AT answers it at every age. -/
theorem seedFillsEveryAge : Obligations.SeedFillsEveryAge := by
  intro frame s hseed hf
  have hages := agesHold_seed hf
  refine ⟨_, exec_seed hseed hf, rfl, hages.size, fun age h1 h5 => ?_⟩
  exact exec_atAge_of_slotFrame hages.seeded hages.size h1 h5
    (State.slotFrame_of_seeded (s := (s.seedStore frame).returning .none) hf rfl (slotOf_lt s.base age))

/-- Settles O39: the one cell written is that of age 5 at the position. -/
theorem pushpxWritesTheOldestSlot : Obligations.PushpxWritesTheOldestSlot := by
  intro x y v s hinv hseed hx hy
  refine ⟨_, exec_pushpx hseed hinv.hist_size hx hy v, rfl, ?_, fun k hk => ?_⟩
  · exact List.getElem?_set_self (State.pushCell_lt hinv.hist_size hx hy)
  · exact List.getElem?_set_ne (Ne.symm hk)

/-- Settles O40: after ADVANCE each age names the slot that the age before it named. -/
theorem advanceRotatesTheAges : Obligations.AdvanceRotatesTheAges := by
  intro s hseed
  obtain ⟨hyoungest, holder⟩ := slotOf_advanceBase s
  refine ⟨_, exec_advance hseed, rfl, rfl, fun x y => ⟨?_, fun age h1 h4 => ?_⟩⟩
  · exact congrArg (fun a => s.hist[s.histCell a x y]?) hyoungest
  · exact congrArg (fun a => s.hist[s.histCell a x y]?) (holder age h1 h4)

/-- Settles O41: AT's frame is the slot of the age, pixel by pixel. -/
theorem atReturnsTheFrameOfAnAge : Obligations.AtReturnsTheFrameOfAnAge := by
  intro age s hinv hseed h1 h5
  exact ⟨_, exec_atAge hseed hinv.hist_size h1 h5, State.slotFrame_length hinv.hist_size (slotOf_lt s.base age),
    fun x hx y hy => State.slotFrame_position hx hy age⟩

/-- Settles O42: each clause is one refusing branch. -/
theorem invalidHistoryCallsAreRefused : Obligations.InvalidHistoryCallsAreRefused := by
  intro s frame x y v age
  exact ⟨fun h => exec_seed_of_seeded h frame, fun h hf => exec_seed_of_size h hf,
    fun h => ⟨exec_pushpx_of_unseeded h x y v, exec_advance_of_unseeded h, exec_atAge_of_unseeded h age⟩,
    fun h hxy => exec_pushpx_of_outside h hxy v, fun h hage => exec_atAge_of_range h hage⟩

/-- Settles O44: SEED fills the ages, and each push moves them on by one, so that after five the seed is gone. -/
theorem fivePushesFillTheHistory : Obligations.FivePushesFillTheHistory := by
  intro seed f1 f2 f3 f4 f5 s _ hseed hs h1 h2 h3 h4 h5
  have hrun0 : runAll [.seed seed] s = .next ((s.seedStore seed).returning .none) := by
    rw [runAll_cons, exec_seed hseed hs]
    rfl
  obtain ⟨t1, hrun1, ha1⟩ := agesHold_push (agesHold_seed hs) h1
  obtain ⟨t2, hrun2, ha2⟩ := agesHold_push ha1 h2
  obtain ⟨t3, hrun3, ha3⟩ := agesHold_push ha2 h3
  obtain ⟨t4, hrun4, ha4⟩ := agesHold_push ha3 h4
  obtain ⟨t5, hrun5, ha5⟩ := agesHold_push ha4 h5
  refine ⟨t5, ?_, ?_⟩
  · simp only [List.append_assoc]
    rw [runAll_append_of_next hrun0, runAll_append_of_next hrun1, runAll_append_of_next hrun2,
      runAll_append_of_next hrun3, runAll_append_of_next hrun4, hrun5]
  · have hat := fun age (hlow : 1 ≤ age) (hhigh : age ≤ 5) =>
      @exec_atAge_of_slotFrame t5 ha5.seeded ha5.size age hlow hhigh
    exact ⟨hat 1 (by decide) (by decide) ha5.age1, hat 2 (by decide) (by decide) ha5.age2,
      hat 3 (by decide) (by decide) ha5.age3, hat 4 (by decide) (by decide) ha5.age4,
      hat 5 (by decide) (by decide) ha5.age5⟩

end Sys2Proof.Machine

/-! PROOF. RENDER and the passes (44_compositor.md): the duties and the capacity check as propositions, what a completed
pass leaves in DST and HIST in the words of the statements, what RENDER answers, and the statements on RENDER, the
passes and REPLPX. -/

namespace Sys2Proof.Machine

open Sys2Proof.Claims

/-! ### The capacity check and the duties -/

theorem tooSmall_eq_false_iff (o : RenderOperands) : tooSmall o = false ↔ CapacityHolds o := by
  simp [tooSmall, CapacityHolds]

theorem tooSmall_eq_true_iff (o : RenderOperands) :
    tooSmall o = true ↔ o.capW.toNat < 2 * o.sourceW.toNat ∨ o.capH.toNat < 2 * o.sourceH.toNat := by
  simp [tooSmall]

/-- The duties of RENDER: those on the destination only where the capacity suffices (20_memory.md R52, log 14). -/
theorem brokenDuty_render_eq_none (o : RenderOperands) (m : Memory) :
    brokenDuty o (!tooSmall o) m = none ↔ SourceDuties o m ∧ (CapacityHolds o → DestDuties o m) := by
  rw [brokenDuty_eq_none, Bool.not_eq_true', tooSmall_eq_false_iff]

/-- The duties of a pass: all of them. -/
theorem brokenDuty_pass_eq_none (o : RenderOperands) (m : Memory) :
    brokenDuty o true m = none ↔ SourceDuties o m ∧ DestDuties o m := by
  rw [brokenDuty_eq_none]
  simp only [forall_const]

theorem underDuties_of_none {o : RenderOperands} {w : Bool} {s : State} (h : brokenDuty o w s.mem = none) (r : Step) :
    underDuties o w s r = r := by
  rw [underDuties, h]

theorem underDuties_of_broken {o : RenderOperands} {w : Bool} {s : State} (h : ¬ brokenDuty o w s.mem = none)
    (r : Step) : ∃ e, underDuties o w s r = .refused e := by
  obtain ⟨e, he⟩ := Option.ne_none_iff_exists'.1 h
  exact ⟨e, by rw [underDuties, he]⟩

theorem whenConstructed_of_constructed {s : State} (h : s.constructed = true) (r : Step) : whenConstructed s r = r :=
  if_pos h

/-! ### What RENDER and the passes answer -/

theorem exec_render_next {o : RenderOperands} {s t : State} :
    exec (.render o) s = .next t ↔ s.constructed = true ∧
      (SourceDuties o s.mem ∧ (CapacityHolds o → DestDuties o s.mem)) ∧ renderFrame o s = .next t := by
  rw [← brokenDuty_render_eq_none, ← underDuties_next, ← whenConstructed_next]
  rfl

theorem exec_seedpass_next {o : RenderOperands} {s t : State} :
    exec (.seedpass o) s = .next t ↔ (SourceDuties o s.mem ∧ DestDuties o s.mem) ∧
      ∃ u, seedPass o s = .next u ∧ t = u.returning .none := by
  change underDuties o true s _ = _ ↔ _
  rw [underDuties_next, brokenDuty_pass_eq_none, andThen_next]
  simp only [Host.Outcome.next.injEq, eq_comm (b := t)]

theorem exec_blendpass_next {o : RenderOperands} {s t : State} :
    exec (.blendpass o) s = .next t ↔ (SourceDuties o s.mem ∧ DestDuties o s.mem) ∧
      ∃ u, blendPass o s = .next u ∧ t = u.returning .none := by
  change underDuties o true s _ = _ ↔ _
  rw [underDuties_next, brokenDuty_pass_eq_none, andThen_next]
  simp only [Host.Outcome.next.injEq, eq_comm (b := t)]

theorem exec_replpx_next {dest : Nat} {stride x y : Dim} {v : Pixel} {s t : State} :
    exec (.replpx dest stride x y v) s = .next t ↔ holdsBlock s.mem dest stride x.toNat y.toNat = true ∧
      t = (s.setMem (writeBlock s.mem dest stride x.toNat y.toNat v)).returning .none := by
  change andThen (replicate dest stride x.toNat y.toNat v s) _ = _ ↔ _
  simp only [andThen_next, replicate_next, Host.Outcome.next.injEq]
  constructor
  · rintro ⟨u, ⟨hb, rfl⟩, rfl⟩; exact ⟨hb, rfl⟩
  · rintro ⟨hb, rfl⟩; exact ⟨_, ⟨hb, rfl⟩, rfl⟩

/-! ### Step 1 of RENDER -/

@[simp] theorem trackDimensions_mem (s : State) (o : RenderOperands) : (s.trackDimensions o).mem = s.mem := by
  unfold State.trackDimensions
  split_ifs <;> rfl

theorem fits_eq_false_iff {s : State} {o : RenderOperands} :
    s.fits o = false ↔ s.lastW ≠ o.sourceW ∨ s.lastH ≠ o.sourceH := by
  rw [← Bool.not_eq_true, fits_iff, not_and_or]

/-- For a first frame step 1 leaves an unseeded store of the frame's dimensions (44_compositor.md R191). -/
theorem trackDimensions_first {s : State} {o : RenderOperands}
    (h : s.seeded = false ∨ s.lastW ≠ o.sourceW ∨ s.lastH ≠ o.sourceH) :
    s.trackDimensions o = { s with
      seeded := false, lastW := o.sourceW, lastH := o.sourceH,
      base := if s.lastW = o.sourceW ∧ s.lastH = o.sourceH then s.base else 0,
      hist := (s.trackDimensions o).hist, drawn := (s.trackDimensions o).drawn } := by
  cases hfit : s.fits o with
  | true =>
    obtain ⟨hw, hh⟩ := fits_iff.1 hfit
    have hseed : s.seeded = false := h.resolve_right (by simp [hw, hh])
    rw [trackDimensions_fits hfit, if_pos ⟨hw, hh⟩, ← hw, ← hh, ← hseed]
  | false =>
    have hne := fits_eq_false_iff.1 hfit
    rw [trackDimensions_resizes hfit, if_neg (by rwa [not_and_or])]
    rfl

/-! ### What a pass leaves in DST -/

/-- The blocks of the whole frame are the destination of the statements (44_compositor.md R197). -/
theorem Drawn.destinationShows {o : RenderOperands} {val : Nat × Nat → Option Pixel} {m m' : Memory}
    (h : Drawn o (positions o.sourceW.toNat o.sourceH.toNat) val m m') :
    DestinationShows o m' fun x y => val (x, y) := by
  intro u hu v hv
  refine h.shows (u / 2, v / 2) (mem_positions.2 ⟨by simp only; omega, by simp only; omega⟩) _ (mem_blockCells.2 ?_)
  refine ⟨u % 2, Nat.mod_lt _ (by decide), v % 2, Nat.mod_lt _ (by decide), ?_⟩
  rw [Nat.div_add_mod, Nat.div_add_mod]
  rfl

/-- Outside the blocks of the whole frame every byte is as before. -/
theorem Drawn.onlyDestinationWritten {o : RenderOperands} {val : Nat × Nat → Option Pixel} {m m' : Memory}
    (h : Drawn o (positions o.sourceW.toNat o.sourceH.toNat) val m m') : OnlyDestinationWritten o m m' := by
  intro a ha
  refine h.other a fun q hq c hc => ?_
  obtain ⟨hx, hy⟩ := mem_positions.1 hq
  obtain ⟨du, hdu, dv, hdv, rfl⟩ := mem_blockCells.1 hc
  exact ha (2 * q.1 + du) (by omega) (2 * q.2 + dv) (by omega)

/-- The source is left as it was, since no block holds a source cell (20_memory.md R52, duty 3). -/
theorem Drawn.readPixel_source {o : RenderOperands} {val : Nat × Nat → Option Pixel} {m m' : Memory}
    (h : Drawn o (positions o.sourceW.toNat o.sourceH.toNat) val m m') (hd : DestDuties o m) {x y : Nat}
    (hx : x < o.sourceW.toNat) (hy : y < o.sourceH.toNat) :
    Memory.readPixel m' (srcCell o x y) = Memory.readPixel m (srcCell o x y) :=
  h.readPixel_other fun _ hq =>
    srcCell_not_mem_block hd hx hy (mem_positions.1 hq).1 (mem_positions.1 hq).2

theorem Drawn.sourceDuties {o : RenderOperands} {qs : List (Nat × Nat)} {val : Nat × Nat → Option Pixel}
    {m m' : Memory} (h : Drawn o qs val m m') (hs : SourceDuties o m) : SourceDuties o m' :=
  ⟨hs.1, fun k hk => (h.holds (o.source + k)).trans (hs.2 k hk)⟩

/-! ### The seed pass -/

/-- The seed pass completes under the duties on an unseeded store of the frame's dimensions (44_compositor.md R194). -/
theorem seedPass_completes {o : RenderOperands} {s : State} (hs : SourceDuties o s.mem) (hd : DestDuties o s.mem)
    (hseed : s.seeded = false) (hw : s.lastW = o.sourceW) (hh : s.lastH = o.sourceH) :
    ∃ t, seedPass o s = .next t ∧ SeedsFrom o s t ∧
      t = { s with seeded := true, hist := t.hist, x := t.x, y := t.y, mem := t.mem, drawn := t.drawn } := by
  obtain ⟨u, hrun, hu, hdrawn⟩ := forEach_seedPosition (positions_nodup o.sourceW.toNat o.sourceH.toNat)
    (fun q hq => mem_positions.1 hq) hs hd
  obtain ⟨frame, hframe, hlen, hpixel⟩ := sourceFrame_eq (hdrawn.sourceDuties hs)
  have hsize : frame.length = u.slotSize := by rw [hlen, hu, ← hw, ← hh]; rfl
  have huseed : u.seeded = false := by rw [hu]; exact hseed
  have huw : u.lastW = o.sourceW := by rw [hu]; exact hw
  have huh : u.lastH = o.sourceH := by rw [hu]; exact hh
  refine ⟨(u.seedStore frame).dropCursor, ?_, ⟨hdrawn.destinationShows, hdrawn.onlyDestinationWritten, ?_,
    fun age _ _ x hx y hy => ?_⟩, ?_⟩
  · exact seedPass_next.2 ⟨hseed, fits_iff.2 ⟨hw, hh⟩, u, _, hrun,
      seedFromSource_next.2 ⟨frame, hframe, huseed, hsize, rfl⟩, rfl⟩
  · simp only [State.dropCursor_hist, State.seedStore_hist, List.length_append, hlen]
    omega
  · have hslot : ((u.seedStore frame).dropCursor).slotFrame (slotOf u.base age) = frame :=
      State.slotFrame_of_seeded (s := (u.seedStore frame).dropCursor) hsize rfl (slotOf_lt u.base age)
    have hread : historyPixel (u.seedStore frame).dropCursor age x y = frame[y * u.lastW.toNat + x]? := by
      rw [← State.slotFrame_position (s := (u.seedStore frame).dropCursor) (by rwa [← huw] at hx)
        (by rwa [← huh] at hy) age]
      exact congrArg (fun f => f[y * u.lastW.toNat + x]?) hslot
    rw [hread, huw, hpixel x hx y hy]
    exact hdrawn.readPixel_source hd hx hy
  · rw [hu]; rfl

/-! ### The blend pass -/

/-- The value of a position comes from its source pixel and its five ages. -/
theorem blendValue_eq_some {o : RenderOperands} {s : State} {q : Nat × Nat} {v : Pixel}
    (h : blendValue o s q = some v) :
    ∃ ps, Memory.readPixel s.mem (srcCell o q.1 q.2) = some ps.p0 ∧ s.samplesAt ps.p0 q.1 q.2 = some ps ∧
      pixelOut s.mode s.fullbright s.motionCheck s.lut ps = some v := by
  unfold blendValue at h
  cases hp : Memory.readPixel s.mem (srcCell o q.1 q.2) with
  | none => simp [hp] at h
  | some p0 =>
    cases hps : s.samplesAt p0 q.1 q.2 with
    | none => simp [hp, hps] at h
    | some ps =>
      obtain rfl := (samplesAt_eq.1 hps).1
      simp only [hp, hps] at h
      exact ⟨ps, rfl, hps, h⟩

/-- A push fills the slot of age 5 at its position and leaves the other slots. -/
theorem Pushed.histCell {o : RenderOperands} {s t : State}
    (h : Pushed o (positions o.sourceW.toNat o.sourceH.toNat) s t) (hw : s.lastW = o.sourceW)
    (hh : s.lastH = o.sourceH) {x y : Nat} (hx : x < o.sourceW.toNat) (hy : y < o.sourceH.toNat) :
    t.hist[s.histCell (slotOf s.base 5) x y]? = Memory.readPixel s.mem (srcCell o x y) ∧
      ∀ age, 1 ≤ age → age ≤ 4 →
        t.hist[s.histCell (slotOf s.base age) x y]? = s.hist[s.histCell (slotOf s.base age) x y]? := by
  refine ⟨h.at_position (x, y) (mem_positions.2 ⟨hx, hy⟩), fun age h1 h4 => h.other _ fun q hq he => ?_⟩
  obtain ⟨hqx, hqy⟩ := mem_positions.1 hq
  rw [← hw] at hx hqx
  rw [← hh] at hy hqy
  exact slotOf_ne_pushSlot s.base h1 h4 (State.histCell_inj hx hqx hy hqy he).1

/-- The blend pass completes under the duties on a seeded store of the frame's dimensions (44_compositor.md R196). -/
theorem blendPass_completes {o : RenderOperands} {s : State} (hinv : s.Inv) (hs : SourceDuties o s.mem)
    (hd : DestDuties o s.mem) (hseed : s.seeded = true) (hw : s.lastW = o.sourceW) (hh : s.lastH = o.sourceH) :
    ∃ t, blendPass o s = .next t ∧ BlendsFrom o s t ∧
      t = { s with base := t.base, hist := t.hist, p := t.p, out := t.out, x := t.x, y := t.y, mem := t.mem,
                   drawn := t.drawn } := by
  obtain ⟨u, hrun, hu, hdrawn, hpushed, hvalue⟩ := forEach_blendPosition
    (positions_nodup o.sourceW.toNat o.sourceH.toNat) (fun q hq => mem_positions.1 hq) hs hd hseed hinv.mode_legal hw hh
    hinv.hist_size
  have huseed : u.seeded = true := by rw [hu]; exact hseed
  have hbase : u.advanceBase.base = s.advanceBase.base := by rw [hu]; rfl
  have hcell : ∀ a x y, u.histCell a x y = s.histCell a x y := by intro a x y; rw [hu]; rfl
  obtain ⟨hyoungest, holder⟩ := slotOf_advanceBase s
  have hread : ∀ age x y, historyPixel u.advanceBase.dropCursor.dropLatches age x y =
      u.hist[s.histCell (slotOf s.advanceBase.base age) x y]? := by
    intro age x y
    rw [← hcell, ← hbase]
    rfl
  refine ⟨u.advanceBase.dropCursor.dropLatches, ?_, ⟨fun x hx y hy => ?_, hdrawn.onlyDestinationWritten, hpushed.length,
    ?_, fun x hx y hy => ?_⟩, ?_⟩
  · exact blendPass_next.2 ⟨hseed, fits_iff.2 ⟨hw, hh⟩, u, hrun, huseed, rfl⟩
  · have hq : (x, y) ∈ positions o.sourceW.toNat o.sourceH.toNat := mem_positions.2 ⟨hx, hy⟩
    obtain ⟨v, hv⟩ := Option.isSome_iff_exists.1 (hvalue (x, y) hq)
    obtain ⟨ps, hsrc, hps, hout⟩ := blendValue_eq_some hv
    obtain ⟨-, h1, h2, h3, h4, h5⟩ := samplesAt_eq.1 hps
    refine ⟨ps, v, hsrc, h1, h2, h3, h4, h5, exec_pixel_of_some hout, fun du hdu dv hdv => ?_⟩
    rw [← hv]
    exact hdrawn.shows (x, y) hq _ (mem_blockCells.2 ⟨du, hdu, dv, hdv, rfl⟩)
  · exact congrArg Fin.val hbase
  · obtain ⟨hnew, hkept⟩ := hpushed.histCell hw hh hx hy
    refine ⟨?_, fun age h1 h4 => ?_⟩
    · rw [hread, hyoungest, hnew]
      rfl
    · rw [hread, holder age h1 h4, hkept age h1 h4]
      rfl
  · rw [hu]; rfl

/-! ### RENDER -/

/-- RENDER of a first frame is a seed pass over the store that step 1 leaves. -/
theorem exec_render_first {o : RenderOperands} {s : State} (hc : s.constructed = true) (hs : SourceDuties o s.mem)
    (hd : DestDuties o s.mem) (hcap : CapacityHolds o)
    (hfirst : s.seeded = false ∨ s.lastW ≠ o.sourceW ∨ s.lastH ≠ o.sourceH) :
    ∃ u, exec (.render o) s = .next (u.returnRendered o) ∧ SeedsFrom o s u ∧
      u = { s.trackDimensions o with
        seeded := true, hist := u.hist, x := u.x, y := u.y, mem := u.mem, drawn := u.drawn } := by
  have htrack := trackDimensions_first hfirst
  have hseed : (s.trackDimensions o).seeded = false := by rw [htrack]
  have hmem := trackDimensions_mem s o
  obtain ⟨hw, hh⟩ := fits_iff.1 (fits_trackDimensions s o)
  obtain ⟨u, hrun, hseeds, hu⟩ := seedPass_completes (hmem.symm ▸ hs) (hmem.symm ▸ hd) hseed hw hh
  rw [SeedsFrom, hmem] at hseeds
  refine ⟨u, exec_render_next.2 ⟨hc, ⟨hs, fun _ => hd⟩, ?_⟩, hseeds, hu⟩
  exact renderFrame_next.2 (.inr (.inr ⟨(tooSmall_eq_false_iff o).2 hcap, hseed, u, hrun, rfl⟩))

/-- RENDER of a later frame is a blend pass. -/
theorem exec_render_later {o : RenderOperands} {s : State} (hinv : s.Inv) (hc : s.constructed = true)
    (hs : SourceDuties o s.mem) (hd : DestDuties o s.mem) (hcap : CapacityHolds o) (hseed : s.seeded = true)
    (hw : s.lastW = o.sourceW) (hh : s.lastH = o.sourceH) :
    ∃ u, exec (.render o) s = .next (u.returnRendered o) ∧ BlendsFrom o s u ∧
      u = { s with base := u.base, hist := u.hist, p := u.p, out := u.out, x := u.x, y := u.y, mem := u.mem,
                   drawn := u.drawn } := by
  have htrack := trackDimensions_fits (fits_iff.2 ⟨hw, hh⟩)
  obtain ⟨u, hrun, hblends, hu⟩ := blendPass_completes hinv hs hd hseed hw hh
  refine ⟨u, exec_render_next.2 ⟨hc, ⟨hs, fun _ => hd⟩, ?_⟩, hblends, hu⟩
  refine renderFrame_next.2 (.inr (.inl ⟨(tooSmall_eq_false_iff o).2 hcap, ?_, u, ?_, rfl⟩))
  · rw [htrack]; exact hseed
  · rw [htrack]; exact hrun

/-- RENDER without capacity stops after step 1 with the result (0, 0) (44_compositor.md R192). -/
theorem exec_render_tooSmall {o : RenderOperands} {s : State} (hc : s.constructed = true) (hs : SourceDuties o s.mem)
    (hcap : o.capW.toNat < 2 * o.sourceW.toNat ∨ o.capH.toNat < 2 * o.sourceH.toNat) :
    exec (.render o) s = .next (s.trackDimensions o).signalTooSmall := by
  refine exec_render_next.2 ⟨hc, ⟨hs, fun h => ?_⟩, renderFrame_next.2 (.inl ⟨(tooSmall_eq_true_iff o).2 hcap, rfl⟩)⟩
  obtain ⟨hw, hh⟩ := h
  omega

/-! ### The statements -/

/-- Settles O17: step 1 leaves an unseeded store of the frame's dimensions, and the seed pass does the rest. -/
theorem renderSeedsTheFirstFrame : Obligations.RenderSeedsTheFirstFrame := by
  intro o s hc hs hd hcap hfirst
  obtain ⟨u, hrun, hseeds, hu⟩ := exec_render_first hc hs hd hcap hfirst
  refine ⟨u.returnRendered o, hrun, hseeds, ?_⟩
  rw [hu, trackDimensions_first hfirst]
  rfl

/-- Settles O18: step 1 changes nothing, and the blend pass does the rest. -/
theorem renderBlendsALaterFrame : Obligations.RenderBlendsALaterFrame := by
  intro o s hinv hc hs hd hcap hseed hw hh
  obtain ⟨u, hrun, hblends, hu⟩ := exec_render_later hinv hc hs hd hcap hseed hw hh
  refine ⟨u.returnRendered o, hrun, hblends, ?_⟩
  rw [hu]
  rfl

/-- Settles O19: step 1 changes nothing. -/
theorem renderTooSmallWritesNothing : Obligations.RenderTooSmallWritesNothing := by
  intro o s hc hs hcap hw hh
  rw [exec_render_tooSmall hc hs hcap, trackDimensions_fits (fits_iff.2 ⟨hw, hh⟩)]
  rfl

/-- Settles O20: step 1 is a RESIZE. -/
theorem renderTooSmallAfterAResize : Obligations.RenderTooSmallAfterAResize := by
  intro o s hc hs hcap hne
  refine ⟨(s.resizeStore o.sourceW o.sourceH).signalTooSmall, ?_, ?_, rfl⟩
  · rw [exec_render_tooSmall hc hs hcap, trackDimensions_resizes (fits_eq_false_iff.2 hne)]
  · change (s.resizeStore o.sourceW o.sourceH).hist.length = _
    rw [State.resizeStore_hist, List.length_map, List.length_range, Config.depth, Nat.mul_comm]

/-- In mode Off PIXEL answers the current pixel (43_pixel_blender.md R175). -/
theorem pixel_off {s : State} (hmode : s.mode = 0) {ps : Samples} {v : Pixel}
    (h : exec (.pixel ps) s = .next { s with out := v, ret := .pixel v }) : v = ps.p0 := by
  rw [exec_pixel_of_some (hmode ▸ pixelOut_off ..)] at h
  exact (congrArg State.out (Host.Outcome.next.inj h)).symm

/-- Settles O21: a first frame is shown and recorded by the seed pass; a later one by the blend pass, whose PIXEL
answers the current pixel. -/
theorem renderInModeOffPassesThrough : Obligations.RenderInModeOffPassesThrough := by
  intro o s hinv hc hs hd hcap hmode
  by_cases hlater : s.seeded = true ∧ s.lastW = o.sourceW ∧ s.lastH = o.sourceH
  case pos =>
    obtain ⟨hseed, hw, hh⟩ := hlater
    obtain ⟨t, hrun, ⟨hshows, -, -, -, hages⟩, -⟩ :=
      renderBlendsALaterFrame o s hinv hc hs hd hcap hseed hw hh
    refine ⟨t, hrun, fun u hu v hv => ?_, fun x hx y hy => (hages x hx y hy).1⟩
    obtain ⟨ps, p, hsrc, -, -, -, -, -, hpixel, hblock⟩ := hshows (u / 2) (by omega) (v / 2) (by omega)
    have hcell := hblock (u % 2) (Nat.mod_lt _ (by decide)) (v % 2) (Nat.mod_lt _ (by decide))
    rw [Nat.div_add_mod, Nat.div_add_mod, pixel_off hmode hpixel, ← hsrc] at hcell
    exact hcell
  case neg =>
    have hfirst : s.seeded = false ∨ s.lastW ≠ o.sourceW ∨ s.lastH ≠ o.sourceH := by
      rwa [not_and_or, not_and_or, Bool.not_eq_true] at hlater
    obtain ⟨t, hrun, ⟨hshows, -, -, hages⟩, -⟩ := renderSeedsTheFirstFrame o s hc hs hd hcap hfirst
    exact ⟨t, hrun, hshows, fun x hx y hy => hages 1 (by decide) (by decide) x hx y hy⟩

/-- Settles O22: a broken duty has a refusal, whatever stands behind the check. -/
theorem brokenHostDutiesAreRefused : Obligations.BrokenHostDutiesAreRefused := by
  intro o s hc
  have hrender : ¬ brokenDuty o (!tooSmall o) s.mem = none → ∃ r, exec (.render o) s = .refused r := by
    intro h
    obtain ⟨e, he⟩ := underDuties_of_broken h (renderFrame o s)
    exact ⟨e, (whenConstructed_of_constructed hc _).trans he⟩
  have hpasses : ¬ brokenDuty o true s.mem = none →
      (∃ r, exec (.seedpass o) s = .refused r) ∧ ∃ r, exec (.blendpass o) s = .refused r :=
    fun h => ⟨underDuties_of_broken h _, underDuties_of_broken h _⟩
  rw [brokenDuty_render_eq_none] at hrender
  rw [brokenDuty_pass_eq_none] at hpasses
  exact ⟨fun h => ⟨hrender fun hd => h hd.1, hpasses fun hd => h hd.1⟩,
    fun h => ⟨fun hcap => hrender fun hd => h (hd.2 hcap), hpasses fun hd => h hd.2⟩⟩

/-- Settles O23, by `seedPass_completes`. -/
theorem seedpassSeedsAndReplicates : Obligations.SeedpassSeedsAndReplicates := by
  intro o s hs hd hseed hw hh
  obtain ⟨u, hrun, hseeds, hu⟩ := seedPass_completes hs hd hseed hw hh
  refine ⟨u.returning .none, exec_seedpass_next.2 ⟨⟨hs, hd⟩, u, hrun, rfl⟩, hseeds, ?_⟩
  rw [hu]
  rfl

/-- Settles O24, by `blendPass_completes`. -/
theorem blendpassBlendsAndPushes : Obligations.BlendpassBlendsAndPushes := by
  intro o s hinv hs hd hseed hw hh
  obtain ⟨u, hrun, hblends, hu⟩ := blendPass_completes hinv hs hd hseed hw hh
  refine ⟨u.returning .none, exec_blendpass_next.2 ⟨⟨hs, hd⟩, u, hrun, rfl⟩, hblends, ?_⟩
  rw [hu]
  rfl

/-- Settles O25: under the duties the first check that fails is the store's. -/
theorem passesInTheWrongConditionAreRefused : Obligations.PassesInTheWrongConditionAreRefused := by
  intro o s hs hd
  have hduties := (brokenDuty_pass_eq_none o s.mem).2 ⟨hs, hd⟩
  have hseedpass : ∀ e, seedPass o s = .refused e → exec (.seedpass o) s = .refused e :=
    fun e h => (underDuties_of_none hduties _).trans (andThen_refused h _)
  have hblendpass : ∀ e, blendPass o s = .refused e → exec (.blendpass o) s = .refused e :=
    fun e h => (underDuties_of_none hduties _).trans (andThen_refused h _)
  refine ⟨fun hseed => hseedpass _ ?_, fun hseed hne => hseedpass _ ?_, fun hseed => hblendpass _ ?_,
    fun hseed hne => hblendpass _ ?_⟩
  · rw [seedPass, if_pos hseed]
  · rw [seedPass, hseed, if_neg (by decide), fits_eq_false_iff.2 hne, if_neg (by decide)]
  · rw [blendPass, hseed, if_neg (by decide)]
  · rw [blendPass, if_pos hseed, fits_eq_false_iff.2 hne, if_neg (by decide)]

/-- DST holds a block where it holds each of its cells, as the statements write them. -/
theorem holdsBlock_iff_cells (m : Memory) (dest : Nat) (stride : Dim) (x y : Nat) :
    holdsBlock m dest stride x y = true ↔ ∀ du < 2, ∀ dv < 2,
      (Memory.readPixel m (dest + ((2 * y + dv) * stride.toNat + (2 * x + du)))).isSome = true := by
  rw [holdsBlock_iff]
  constructor
  · intro h du hdu dv hdv
    exact h _ (mem_blockCells.2 ⟨du, hdu, dv, hdv, rfl⟩)
  · intro h c hc
    obtain ⟨du, hdu, dv, hdv, rfl⟩ := mem_blockCells.1 hc
    exact h du hdu dv hdv

/-- Settles O26: REPLPX's block write is read back cell by cell, or one cell is not held. -/
theorem replpxWritesOneBlock : Obligations.ReplpxWritesOneBlock := by
  intro dest stride x y v s
  refine ⟨fun hcells => ?_, fun ⟨du, hdu, dv, hdv, hnone⟩ => ?_⟩
  · have hblock := (holdsBlock_iff_cells s.mem dest stride x.toNat y.toNat).2 hcells
    refine ⟨_, exec_replpx_next.2 ⟨hblock, rfl⟩, rfl, fun du hdu dv hdv => ?_, fun a ha => ?_⟩
    · exact (readPixel_writeBlock ..).trans (if_pos (mem_blockCells.2 ⟨du, hdu, dv, hdv, rfl⟩))
    · refine read_writeBlock_other _ _ _ _ _ _ fun c hc => ?_
      obtain ⟨du, hdu, dv, hdv, rfl⟩ := mem_blockCells.1 hc
      exact ha du hdu dv hdv
  · refine andThen_refused (if_neg fun hblock => ?_) _
    have hsome := (holdsBlock_iff_cells s.mem dest stride x.toNat y.toNat).1 hblock du hdu dv hdv
    rw [hnone] at hsome
    cases hsome

end Sys2Proof.Machine

/-! PROOF. The whole machine (10_state.md, 20_memory.md): what a completed instruction can leave, said once for all
thirty, and from it the invariant and the writers of the registers and of host memory. -/

namespace Sys2Proof.Machine

open Sys2Proof.Claims

/-! ### Host memory across an instruction -/

/-- The canonical form is kept, and no address is added or taken away. -/
structure MemoryKept (m m' : Memory) : Prop where
  wf : Memory.wf m → Memory.wf m'
  same : ∀ a, (Memory.read m' a).isSome = (Memory.read m a).isSome

theorem MemoryKept.refl (m : Memory) : MemoryKept m m := ⟨id, fun _ => rfl⟩

theorem MemoryKept.trans {m m' m'' : Memory} (h : MemoryKept m m') (h' : MemoryKept m' m'') : MemoryKept m m'' :=
  ⟨h'.wf ∘ h.wf, fun a => (h'.same a).trans (h.same a)⟩

theorem memoryKept_writeBlock {m : Memory} {dest : Nat} {stride : Dim} {x y : Nat}
    (h : holdsBlock m dest stride x y = true) (v : Pixel) : MemoryKept m (writeBlock m dest stride x y v) :=
  ⟨fun hwf => writeBlock_wf hwf dest stride x y v, read_isSome_writeBlock h v⟩

/-! ### What a completed pass can leave -/

/-- What a pass, or a part of one, leaves of a state: a store of the same dimensions, free contents of the working
registers, and host memory with the same addresses. -/
structure PassEffect (s t : State) : Prop where
  frame : t = { s with
    seeded := t.seeded, base := t.base, hist := t.hist, p := t.p, out := t.out, x := t.x, y := t.y, mem := t.mem,
    drawn := t.drawn }
  size : s.hist.length = 5 * s.slotSize → t.hist.length = 5 * s.slotSize
  mem : MemoryKept s.mem t.mem

theorem PassEffect.refl (s : State) : PassEffect s s := ⟨rfl, id, .refl s.mem⟩

theorem PassEffect.slotSize {s t : State} (h : PassEffect s t) : t.slotSize = s.slotSize := by
  rw [h.frame]; rfl

theorem PassEffect.trans {s t u : State} (h : PassEffect s t) (h' : PassEffect t u) : PassEffect s u := by
  refine ⟨?_, fun hl => ?_, h.mem.trans h'.mem⟩
  · rw [h'.frame, h.frame]
  · rw [← h.slotSize] at hl ⊢
    exact h'.size (h.slotSize.symm ▸ h.size (h.slotSize ▸ hl))

theorem passEffect_setCursor (s : State) (x y : Nat) : PassEffect s (s.setCursor x y) := ⟨rfl, id, .refl s.mem⟩

theorem passEffect_setLatches (s : State) (ps : Samples) : PassEffect s (s.setLatches ps) := ⟨rfl, id, .refl s.mem⟩

theorem passEffect_setOut (s : State) (v : Pixel) : PassEffect s (s.setOut v) := ⟨rfl, id, .refl s.mem⟩

theorem passEffect_setMem {s : State} {m : Memory} (h : MemoryKept s.mem m) : PassEffect s (s.setMem m) := ⟨rfl, id, h⟩

theorem passEffect_setHist (s : State) (k : Nat) (v : Pixel) : PassEffect s (s.setHist k v) :=
  ⟨rfl, List.length_set.trans, .refl s.mem⟩

theorem passEffect_seedPosition {o : RenderOperands} {q : Nat × Nat} {s t : State}
    (h : seedPosition o q s = .next t) : PassEffect s t := by
  obtain ⟨v, -, hblock, rfl⟩ := seedPosition_next.1 h
  exact (passEffect_setCursor s q.1 q.2).trans (passEffect_setMem (memoryKept_writeBlock hblock v))

theorem passEffect_blendPosition {o : RenderOperands} {q : Nat × Nat} {s t : State}
    (h : blendPosition o q s = .next t) : PassEffect s t := by
  obtain ⟨p0, ps, v, -, -, -, hblock, hpush⟩ := blendPosition_next.1 h
  obtain ⟨-, -, -, -, rfl⟩ := pushPixel_next.1 hpush
  have hloaded := ((passEffect_setCursor s q.1 q.2).trans (passEffect_setLatches _ ps)).trans (passEffect_setOut _ v)
  exact (hloaded.trans (passEffect_setMem (memoryKept_writeBlock hblock v))).trans (passEffect_setHist _ _ ps.p0)

/-- What every position leaves, a run over positions leaves. -/
theorem passEffect_forEach {f : Nat × Nat → State → Step} (hf : ∀ q s t, f q s = .next t → PassEffect s t)
    {qs : List (Nat × Nat)} {s t : State} (h : forEach f qs s = .next t) : PassEffect s t :=
  forEach_keeps (PassEffect s) (fun q _ u v hu hv => hu.trans (hf q u v hv)) (.refl s) h

theorem passEffect_seedPass {o : RenderOperands} {s t : State} (h : seedPass o s = .next t) : PassEffect s t := by
  obtain ⟨-, -, u, v, hrun, hseed, rfl⟩ := seedPass_next.1 h
  obtain ⟨frame, -, -, hlen, rfl⟩ := seedFromSource_next.1 hseed
  refine (passEffect_forEach (fun _ _ _ => passEffect_seedPosition) hrun).trans ⟨rfl, fun _ => ?_, .refl u.mem⟩
  simp only [State.dropCursor_hist, State.seedStore_hist, List.length_append, hlen]
  omega

theorem passEffect_blendPass {o : RenderOperands} {s t : State} (h : blendPass o s = .next t) : PassEffect s t := by
  obtain ⟨-, -, u, hrun, -, rfl⟩ := blendPass_next.1 h
  exact (passEffect_forEach (fun _ _ _ => passEffect_blendPosition) hrun).trans ⟨rfl, id, .refl u.mem⟩

/-! ### What a completed instruction can leave -/

/-- The states an instruction can answer from `s`. An instruction that only answers a result is a case of `answers`. -/
inductive Effect (s : State) : Instr → State → Prop
  | answers (i : Instr) (r : Result) : Effect s i (s.returning r)
  | construct (cfg : Cfg) :
    Effect s (.construct cfg) ((((s.configure cfg).resizeStore 0 0).markConstructed).returning .none)
  | reload (cfg : Cfg) : Effect s (.reload cfg) ((s.configure cfg).returning .none)
  | toggle : Effect s .toggle (s.toggleMode.returning .none)
  | renderTooSmall (o : RenderOperands) : Effect s (.render o) (s.trackDimensions o).signalTooSmall
  | render (o : RenderOperands) (u : State) (h : PassEffect (s.trackDimensions o) u) :
    Effect s (.render o) (u.returnRendered o)
  | build (gamma ratio : Rat) (r : Result) : Effect s (.build gamma ratio) ((s.build gamma ratio).returning r)
  | resize (w h : Dim) : Effect s (.resize w h) ((s.resizeStore w h).returning .none)
  | seed (frame : List Pixel) (h : frame.length = s.slotSize) :
    Effect s (.seed frame) ((s.seedStore frame).returning .none)
  | pushpx (x y : Dim) (v : Pixel) (k : Nat) : Effect s (.pushpx x y v) ((s.setHist k v).returning .none)
  | advance : Effect s .advance (s.advanceBase.returning .none)
  | pixel (ps : Samples) (v : Pixel) : Effect s (.pixel ps) ((s.setOut v).returning (.pixel v))
  | replpx (dest : Nat) (stride x y : Dim) (v : Pixel) (m : Memory) (h : MemoryKept s.mem m) :
    Effect s (.replpx dest stride x y v) ((s.setMem m).returning .none)
  | seedpass (o : RenderOperands) (u : State) (h : PassEffect s u) : Effect s (.seedpass o) (u.returning .none)
  | blendpass (o : RenderOperands) (u : State) (h : PassEffect s u) : Effect s (.blendpass o) (u.returning .none)

theorem effect_render {o : RenderOperands} {s t : State} (h : exec (.render o) s = .next t) :
    Effect s (.render o) t := by
  obtain ⟨-, -, hframe⟩ := exec_render_next.1 h
  rcases renderFrame_next.1 hframe with ⟨-, rfl⟩ | ⟨-, -, u, hu, rfl⟩ | ⟨-, -, u, hu, rfl⟩
  · exact .renderTooSmall o
  · exact .render o u (passEffect_blendPass hu)
  · exact .render o u (passEffect_seedPass hu)

theorem effect_atAge {age : Nat} {s t : State} (h : exec (.atAge age) s = .next t) : Effect s (.atAge age) t := by
  change execAtAge age s = .next t at h
  unfold execAtAge at h
  split_ifs at h
  split at h <;> cases h
  exact .answers _ _

/-- An instruction that goes on leaves one of its effects. -/
theorem effect_of_exec {i : Instr} {s t : State} (h : exec i s = .next t) : Effect s i t := by
  cases i with
  | construct cfg => cases h; exact .construct cfg
  | reload cfg => obtain ⟨-, ht⟩ := whenConstructed_next.1 h; cases ht; exact .reload cfg
  | toggle => obtain ⟨-, ht⟩ := whenConstructed_next.1 h; cases ht; exact .toggle
  | status => obtain ⟨-, ht⟩ := whenConstructed_next.1 h; cases ht; exact .answers _ _
  | render o => exact effect_render h
  | build gamma ratio => cases h; exact .build gamma ratio _
  | fwdent i g => cases i <;> cases h <;> exact .answers _ _
  | revent i g => cases i <;> cases h <;> exact .answers _ _
  | blendent e r => cases e <;> cases h <;> exact .answers _ _
  | resize w h' => cases h; exact .resize w h'
  | seed frame =>
    obtain ⟨u, hu, ht⟩ := andThen_next.1 h
    obtain ⟨-, hlen, rfl⟩ := seedFrame_next.1 hu
    cases ht
    exact .seed frame hlen
  | pushpx x y v =>
    obtain ⟨u, hu, ht⟩ := andThen_next.1 h
    obtain ⟨-, -, -, -, rfl⟩ := pushPixel_next.1 hu
    cases ht
    exact .pushpx x y v _
  | advance =>
    obtain ⟨u, hu, ht⟩ := andThen_next.1 h
    obtain ⟨-, rfl⟩ := advanceStore_next.1 hu
    cases ht
    exact .advance
  | atAge age => exact effect_atAge h
  | pixel ps =>
    obtain ⟨u, hu, ht⟩ := andThen_next.1 h
    obtain ⟨v, -, rfl⟩ := evaluatePixel_next.1 hu
    cases ht
    exact .pixel ps v
  | replpx dest stride x y v =>
    obtain ⟨hblock, rfl⟩ := exec_replpx_next.1 h
    exact .replpx dest stride x y v _ (memoryKept_writeBlock hblock v)
  | seedpass o =>
    obtain ⟨-, u, hu, rfl⟩ := exec_seedpass_next.1 h
    exact .seedpass o u (passEffect_seedPass hu)
  | blendpass o =>
    obtain ⟨-, u, hu, rfl⟩ := exec_blendpass_next.1 h
    exact .blendpass o u (passEffect_blendPass hu)
  | clampg | clampr | unpack | pack | blend2 | blend3 | or3 | pure | elig3 | alt2 | twopath | triout =>
    cases h; exact .answers _ _

/-! ### The invariant -/

/-- The invariant is about the mode, the tables, the store and host memory only. -/
theorem State.Inv.returning {s : State} (h : s.Inv) (r : Result) : (s.returning r).Inv :=
  ⟨h.mode_legal, h.lut_built, h.hist_size, h.mem_wf⟩

theorem State.Inv.returnSize {s : State} (h : s.Inv) (w h' : OutDim) : (s.returnSize w h').Inv :=
  ⟨h.mode_legal, h.lut_built, h.hist_size, h.mem_wf⟩

theorem State.Inv.setInbox {s : State} (h : s.Inv) (rest : List Input) : (s.setInbox rest).Inv :=
  ⟨h.mode_legal, h.lut_built, h.hist_size, h.mem_wf⟩

theorem State.Inv.setMem {s : State} (h : s.Inv) {m : Memory} (hm : Memory.wf m) : (s.setMem m).Inv :=
  ⟨h.mode_legal, h.lut_built, h.hist_size, hm⟩

theorem State.Inv.build {s : State} (h : s.Inv) (gamma ratio : Rat) : (s.build gamma ratio).Inv :=
  ⟨h.mode_legal, rfl, h.hist_size, h.mem_wf⟩

theorem State.Inv.configure {s : State} (h : s.Inv) (cfg : Cfg) : (s.configure cfg).Inv :=
  ⟨saneMode_ne_three cfg.mode, rfl, h.hist_size, h.mem_wf⟩

theorem State.Inv.toggleMode {s : State} (h : s.Inv) : s.toggleMode.Inv := by
  refine ⟨fun hmode => ?_, h.lut_built, h.hist_size, h.mem_wf⟩
  have hvalue := s.toggleMode_mode_toNat
  rw [hmode] at hvalue
  exact absurd hvalue (Nat.mod_lt _ (by decide)).ne'

theorem State.Inv.resizeStore {s : State} (h : s.Inv) (w h' : Dim) : (s.resizeStore w h').Inv := by
  refine ⟨h.mode_legal, h.lut_built, ?_, h.mem_wf⟩
  rw [State.resizeStore_hist, List.length_map, List.length_range, Config.depth, Nat.mul_comm]
  rfl

theorem State.Inv.trackDimensions {s : State} (h : s.Inv) (o : RenderOperands) : (s.trackDimensions o).Inv := by
  unfold State.trackDimensions
  split_ifs
  · exact h
  · exact h.resizeStore _ _

theorem State.Inv.passEffect {s t : State} (h : s.Inv) (hp : PassEffect s t) : t.Inv := by
  refine ⟨?_, ?_, ?_, hp.mem.wf h.mem_wf⟩
  · rw [hp.frame]; exact h.mode_legal
  · rw [hp.frame]; exact h.lut_built
  · rw [hp.size h.hist_size, ← hp.slotSize]; rfl

theorem State.Inv.effect {i : Instr} {s t : State} (h : s.Inv) (he : Effect s i t) : t.Inv := by
  cases he with
  | answers _ r => exact h.returning r
  | construct cfg =>
    have hresized := (h.configure cfg).resizeStore 0 0
    exact ⟨hresized.mode_legal, hresized.lut_built, hresized.hist_size, hresized.mem_wf⟩
  | reload cfg => exact (h.configure cfg).returning .none
  | toggle => exact h.toggleMode.returning .none
  | renderTooSmall o => exact (h.trackDimensions o).returnSize 0 0
  | render o u hp => exact ((h.trackDimensions o).passEffect hp).returnSize _ _
  | build gamma ratio r => exact (h.build gamma ratio).returning r
  | resize w h' => exact (h.resizeStore w h').returning .none
  | seed frame hlen =>
    exact ⟨h.mode_legal, h.lut_built, (agesHold_seed hlen).size, h.mem_wf⟩
  | pushpx x y v k => exact ⟨h.mode_legal, h.lut_built, List.length_set.trans h.hist_size, h.mem_wf⟩
  | advance => exact ⟨h.mode_legal, h.lut_built, h.hist_size, h.mem_wf⟩
  | pixel ps v => exact ⟨h.mode_legal, h.lut_built, h.hist_size, h.mem_wf⟩
  | replpx dest stride x y v m hm => exact (h.setMem (hm.wf h.mem_wf)).returning .none
  | seedpass o u hp => exact (h.passEffect hp).returning .none
  | blendpass o u hp => exact (h.passEffect hp).returning .none

/-! ### The statements -/

/-- Settles O8: with no input nothing changes, a host write keeps the canonical form, and a command leaves one of the
effects of its instruction. -/
theorem everyStepKeepsTheInvariant : Obligations.EveryStepKeepsTheInvariant := by
  intro s t hinv hstep
  cases hin : s.inbox with
  | nil =>
    rw [step_of_empty hin] at hstep
    cases hstep
    exact hinv
  | cons input rest =>
    cases input with
    | poke cell ps =>
      rw [step_of_poke hin] at hstep
      cases hstep
      exact (hinv.setInbox rest).setMem (Memory.writeRun_wf hinv.mem_wf cell ps)
    | command c =>
      cases hd : decode c with
      | ok i =>
        rw [step_of_decoded hin hd] at hstep
        exact (hinv.setInbox rest).effect (effect_of_exec hstep)
      | error e =>
        have hreserved : c.op.toNat ∉ tableCodes := fun hc => by
          obtain ⟨i, hi⟩ := decode_of_mem_tableCodes hc
          rw [hi] at hd
          cases hd
        rw [step_of_reserved hin hreserved] at hstep
        cases hstep

/-- Settles O9. -/
theorem resetMeetsTheInvariant : Obligations.ResetMeetsTheInvariant :=
  ⟨by decide, rfl, rfl, List.Pairwise.nil⟩

/-- A pass leaves the parameters, the tables, the controls, the dimensions, the result pair and the inbox. -/
theorem PassEffect.registers {s t : State} (h : PassEffect s t) :
    (t.gamma = s.gamma ∧ t.ratio = s.ratio ∧ t.lut = s.lut) ∧
    (t.fullbright = s.fullbright ∧ t.motionCheck = s.motionCheck ∧ t.mode = s.mode) ∧
    (t.lastW = s.lastW ∧ t.lastH = s.lastH) ∧ (t.outW = s.outW ∧ t.outH = s.outH) ∧ t.inbox = s.inbox := by
  rw [h.frame]
  exact ⟨⟨rfl, rfl, rfl⟩, ⟨rfl, rfl, rfl⟩, ⟨rfl, rfl⟩, ⟨rfl, rfl⟩, rfl⟩

/-- Step 1 of RENDER leaves the parameters, the tables, the controls and the inbox. -/
theorem trackDimensions_registers (s : State) (o : RenderOperands) :
    ((s.trackDimensions o).gamma = s.gamma ∧ (s.trackDimensions o).ratio = s.ratio ∧
      (s.trackDimensions o).lut = s.lut) ∧
    ((s.trackDimensions o).fullbright = s.fullbright ∧ (s.trackDimensions o).motionCheck = s.motionCheck ∧
      (s.trackDimensions o).mode = s.mode) ∧ (s.trackDimensions o).inbox = s.inbox := by
  unfold State.trackDimensions
  split_ifs <;> exact ⟨⟨rfl, rfl, rfl⟩, ⟨rfl, rfl, rfl⟩, rfl⟩

/-- Settles O57: each effect but a writer's leaves the register, and an effect is a writer's only where the instruction
is. -/
theorem registersHaveOnlyTheirWriters : Obligations.RegistersHaveOnlyTheirWriters := by
  intro i s t h
  cases effect_of_exec h with
  | construct cfg => simp [State.configure]
  | reload cfg => simp [State.configure]
  | renderTooSmall o =>
    obtain ⟨htables, ⟨hf, hc, hm⟩, hin⟩ := trackDimensions_registers s o
    exact ⟨fun _ _ _ => htables, fun _ _ => ⟨hf, hc, fun _ => hm⟩, fun _ _ ho => absurd rfl (ho o),
      fun ho => absurd rfl (ho o), hin⟩
  | render o u hp =>
    obtain ⟨⟨hg, hr, hl⟩, ⟨hf, hc, hm⟩, hin⟩ := trackDimensions_registers s o
    obtain ⟨⟨hg', hr', hl'⟩, ⟨hf', hc', hm'⟩, -, -, hin'⟩ := hp.registers
    exact ⟨fun _ _ _ => ⟨hg'.trans hg, hr'.trans hr, hl'.trans hl⟩,
      fun _ _ => ⟨hf'.trans hf, hc'.trans hc, fun _ => hm'.trans hm⟩, fun _ _ ho => absurd rfl (ho o),
      fun ho => absurd rfl (ho o), hin'.trans hin⟩
  | seedpass o u hp =>
    obtain ⟨htables, ⟨hf, hc, hm⟩, hdims, hout, hin⟩ := hp.registers
    exact ⟨fun _ _ _ => htables, fun _ _ => ⟨hf, hc, fun _ => hm⟩, fun _ _ _ => hdims, fun _ => hout, hin⟩
  | blendpass o u hp =>
    obtain ⟨htables, ⟨hf, hc, hm⟩, hdims, hout, hin⟩ := hp.registers
    exact ⟨fun _ _ _ => htables, fun _ _ => ⟨hf, hc, fun _ => hm⟩, fun _ _ _ => hdims, fun _ => hout, hin⟩
  | toggle => simp
  | build gamma ratio r => simp
  | resize w h => simp
  | answers | seed | pushpx | advance | pixel | replpx =>
    exact ⟨fun _ _ _ => ⟨rfl, rfl, rfl⟩, fun _ _ => ⟨rfl, rfl, fun _ => rfl⟩, fun _ _ _ => ⟨rfl, rfl⟩,
      fun _ => ⟨rfl, rfl⟩, rfl⟩

/-- Settles O58: the effects of the four writers keep every address, and the others leave host memory. -/
theorem hostMemoryHasOnlyItsWriters : Obligations.HostMemoryHasOnlyItsWriters := by
  intro i s t h
  cases effect_of_exec h with
  | renderTooSmall o =>
    have hmem := trackDimensions_mem s o
    exact ⟨fun ho _ _ _ => absurd rfl (ho o), fun a => congrArg (fun m => (Memory.read m a).isSome) hmem⟩
  | render o u hp =>
    exact ⟨fun ho _ _ _ => absurd rfl (ho o), fun a => trackDimensions_mem s o ▸ hp.mem.same a⟩
  | replpx dest stride x y v m hm => exact ⟨fun _ hr _ _ => absurd rfl (hr dest stride x y v), hm.same⟩
  | seedpass o u hp => exact ⟨fun _ _ ho _ => absurd rfl (ho o), hp.mem.same⟩
  | blendpass o u hp => exact ⟨fun _ _ _ ho => absurd rfl (ho o), hp.mem.same⟩
  | answers | construct | reload | toggle | build | resize | seed | pushpx | advance | pixel =>
    exact ⟨fun _ _ _ _ => rfl, fun _ => rfl⟩

end Sys2Proof.Machine

/-! PROOF. What RENDER does not read (10_state.md R10 to R12): a simulation between states that differ only in the
latches, `OUT`, the cursor and the last result. -/

namespace Sys2Proof.Machine

open Sys2Proof.Claims

/-- The states differ only in the latches, `OUT`, the cursor and the last result. -/
def AlikeButTransients (s u : State) : Prop :=
  ∃ (p : Samples) (out : Pixel) (x y : Dim) (r : Result),
    u = { s with p := p, out := out, x := x, y := y, ret := r }

/-- From alike states the operation goes on to alike states. -/
def IgnoresTransients (f : State → Step) : Prop :=
  ∀ s u t, AlikeButTransients s u → f s = .next t → ∃ v, f u = .next v ∧ AlikeButTransients t v

theorem ignoresTransients_forEach {f : Nat × Nat → State → Step} (hf : ∀ q, IgnoresTransients (f q))
    (qs : List (Nat × Nat)) : IgnoresTransients (forEach f qs) := by
  induction qs with
  | nil =>
    intro s u t hsu h
    rw [forEach_nil] at h
    cases h
    exact ⟨u, rfl, hsu⟩
  | cons q qs ih =>
    intro s u t hsu h
    rw [forEach_cons] at h
    obtain ⟨s', hs', h⟩ := andThen_next.1 h
    obtain ⟨u', hu', hsu'⟩ := hf q s u s' hsu hs'
    obtain ⟨v, hv, htv⟩ := ih s' u' t hsu' h
    exact ⟨v, by rw [forEach_cons, hu', andThen_next_eq, hv], htv⟩

theorem ignoresTransients_seedPosition (o : RenderOperands) (q : Nat × Nat) :
    IgnoresTransients (seedPosition o q) := by
  rintro s _ t ⟨p, out, x, y, r, rfl⟩ h
  obtain ⟨v, hv, hblock, rfl⟩ := seedPosition_next.1 h
  exact ⟨_, seedPosition_next.2 ⟨v, hv, hblock, rfl⟩, p, out, _, _, r, rfl⟩

theorem ignoresTransients_blendPosition (o : RenderOperands) (q : Nat × Nat) :
    IgnoresTransients (blendPosition o q) := by
  rintro s _ t ⟨p, out, x, y, r, rfl⟩ h
  obtain ⟨p0, ps, v, hp0, hps, hv, hblock, hpush⟩ := blendPosition_next.1 h
  obtain ⟨hseed, hx, hy, hcell, rfl⟩ := pushPixel_next.1 hpush
  exact ⟨_, blendPosition_next.2 ⟨p0, ps, v, hp0, hps, hv, hblock, pushPixel_next.2 ⟨hseed, hx, hy, hcell, rfl⟩⟩,
    ps, v, _, _, r, rfl⟩

theorem ignoresTransients_seedPass (o : RenderOperands) : IgnoresTransients (seedPass o) := by
  intro s u t hsu h
  obtain ⟨hseed, hfits, s', w, hrun, hsource, rfl⟩ := seedPass_next.1 h
  obtain ⟨frame, hframe, hseed', hlen, rfl⟩ := seedFromSource_next.1 hsource
  obtain ⟨u', hrun', p, out, x, y, r, rfl⟩ :=
    ignoresTransients_forEach (ignoresTransients_seedPosition o) _ s u s' hsu hrun
  obtain ⟨p0, out0, x0, y0, r0, rfl⟩ := hsu
  exact ⟨_, seedPass_next.2 ⟨hseed, hfits, _, _, hrun', seedFromSource_next.2 ⟨frame, hframe, hseed', hlen, rfl⟩, rfl⟩,
    p, out, _, _, r, rfl⟩

theorem ignoresTransients_blendPass (o : RenderOperands) : IgnoresTransients (blendPass o) := by
  intro s u t hsu h
  obtain ⟨hseed, hfits, s', hrun, hseed', rfl⟩ := blendPass_next.1 h
  obtain ⟨u', hrun', p, out, x, y, r, rfl⟩ :=
    ignoresTransients_forEach (ignoresTransients_blendPosition o) _ s u s' hsu hrun
  obtain ⟨p0, out0, x0, y0, r0, rfl⟩ := hsu
  exact ⟨_, blendPass_next.2 ⟨hseed, hfits, _, hrun', hseed', rfl⟩, _, _, _, _, r, rfl⟩

/-- Step 1 of RENDER keeps states alike. -/
theorem AlikeButTransients.trackDimensions {s u : State} (h : AlikeButTransients s u) (o : RenderOperands) :
    AlikeButTransients (s.trackDimensions o) (u.trackDimensions o) := by
  obtain ⟨p, out, x, y, r, rfl⟩ := h
  cases hfit : s.fits o with
  | true =>
    rw [trackDimensions_fits hfit,
      trackDimensions_fits (s := { s with p := p, out := out, x := x, y := y, ret := r }) hfit]
    exact ⟨p, out, x, y, r, rfl⟩
  | false =>
    rw [trackDimensions_resizes hfit,
      trackDimensions_resizes (s := { s with p := p, out := out, x := x, y := y, ret := r }) hfit]
    exact ⟨p, out, x, y, r, rfl⟩

theorem AlikeButTransients.seeded {s u : State} (h : AlikeButTransients s u) : u.seeded = s.seeded := by
  obtain ⟨p, out, x, y, r, rfl⟩ := h
  rfl

/-- What the statement compares of two states that RENDER leaves. -/
theorem AlikeButTransients.returnSize {s u : State} (h : AlikeButTransients s u) (w h' : OutDim) :
    (u.returnSize w h').mem = (s.returnSize w h').mem ∧ (u.returnSize w h').hist = (s.returnSize w h').hist ∧
      (u.returnSize w h').base = (s.returnSize w h').base ∧ (u.returnSize w h').seeded = (s.returnSize w h').seeded ∧
      (u.returnSize w h').lastW = (s.returnSize w h').lastW ∧ (u.returnSize w h').lastH = (s.returnSize w h').lastH ∧
      (u.returnSize w h').outW = (s.returnSize w h').outW ∧ (u.returnSize w h').outH = (s.returnSize w h').outH ∧
      (u.returnSize w h').ret = (s.returnSize w h').ret := by
  obtain ⟨p, out, x, y, r, rfl⟩ := h
  exact ⟨rfl, rfl, rfl, rfl, rfl, rfl, rfl, rfl, rfl⟩

/-- Settles O59: every part of RENDER ignores the transients, and its return replaces the result pair. -/
theorem transientsAreUnobservable : Obligations.TransientsAreUnobservable := by
  intro o s t p out x y r h
  obtain ⟨hc, hduties, hframe⟩ := exec_render_next.1 h
  have hsu : AlikeButTransients s { s with p := p, out := out, x := x, y := y, ret := r } := ⟨p, out, x, y, r, rfl⟩
  have htrack := hsu.trackDimensions o
  rcases renderFrame_next.1 hframe with ⟨hsmall, rfl⟩ | ⟨hcap, hseed, t', hrun, rfl⟩ | ⟨hcap, hseed, t', hrun, rfl⟩
  · exact ⟨_, exec_render_next.2 ⟨hc, hduties, renderFrame_next.2 (.inl ⟨hsmall, rfl⟩)⟩, htrack.returnSize 0 0⟩
  · obtain ⟨v, hv, halike⟩ := ignoresTransients_blendPass o _ _ _ htrack hrun
    exact ⟨_, exec_render_next.2 ⟨hc, hduties, renderFrame_next.2
      (.inr (.inl ⟨hcap, htrack.seeded.trans hseed, v, hv, rfl⟩))⟩, halike.returnSize _ _⟩
  · obtain ⟨v, hv, halike⟩ := ignoresTransients_seedPass o _ _ _ htrack hrun
    exact ⟨_, exec_render_next.2 ⟨hc, hduties, renderFrame_next.2
      (.inr (.inr ⟨hcap, htrack.seeded.trans hseed, v, hv, rfl⟩))⟩, halike.returnSize _ _⟩

end Sys2Proof.Machine

/-! PROOF. Where a step goes on (60_exceptions.md R232): an instruction goes on exactly on an allowed use, and the
statement on refusals. -/

namespace Sys2Proof.Machine

open Sys2Proof.Claims

/-! ### Outcomes -/

/-- The engine has no fault (60_exceptions.md R235), so a step that does not go on is refused. -/
theorem refused_iff_not_next (r : Step) : (∃ e, r = .refused e) ↔ ¬ ∃ t, r = .next t := by
  cases r with
  | next t => simp
  | fault e => cases e
  | refused e => simp

/-! ### An instruction that goes on was allowed -/

theorem allowed_of_exec {i : Instr} {s t : State} (h : exec i s = .next t) : Allowed i s := by
  cases i with
  | reload cfg => exact (whenConstructed_next.1 h).1
  | toggle => exact (whenConstructed_next.1 h).1
  | status => exact (whenConstructed_next.1 h).1
  | render o =>
    obtain ⟨hc, ⟨hs, hd⟩, -⟩ := exec_render_next.1 h
    exact ⟨hc, hs, hd⟩
  | seed frame =>
    obtain ⟨u, hu, -⟩ := andThen_next.1 h
    obtain ⟨hseed, hlen, -⟩ := seedFrame_next.1 hu
    exact ⟨hseed, hlen⟩
  | pushpx x y v =>
    obtain ⟨u, hu, -⟩ := andThen_next.1 h
    obtain ⟨hseed, hx, hy, -, -⟩ := pushPixel_next.1 hu
    exact ⟨hseed, hx, hy⟩
  | advance =>
    obtain ⟨u, hu, -⟩ := andThen_next.1 h
    exact (advanceStore_next.1 hu).1
  | atAge age =>
    cases hseed : s.seeded with
    | false => rw [exec_atAge_of_unseeded hseed] at h; cases h
    | true =>
      by_contra hrange
      rw [exec_atAge_of_range hseed (by simp only [Allowed, hseed, true_and] at hrange; omega)] at h
      cases h
  | pixel ps =>
    intro hmode
    rw [exec_pixel_of_none (hmode ▸ pixelOut_reserved ..)] at h
    cases h
  | replpx dest stride x y v => exact (holdsBlock_iff_cells ..).1 (exec_replpx_next.1 h).1
  | seedpass o =>
    obtain ⟨⟨hs, hd⟩, u, hu, -⟩ := exec_seedpass_next.1 h
    obtain ⟨hseed, hfits, -⟩ := seedPass_next.1 hu
    exact ⟨hs, hd, hseed, fits_iff.1 hfits⟩
  | blendpass o =>
    obtain ⟨⟨hs, hd⟩, u, hu, -⟩ := exec_blendpass_next.1 h
    obtain ⟨hseed, hfits, -⟩ := blendPass_next.1 hu
    exact ⟨hs, hd, hseed, fits_iff.1 hfits⟩
  | construct | build | clampg | clampr | fwdent | revent | blendent | resize | unpack | pack | blend2 | blend3 | or3
  | pure | elig3 | alt2 | twopath | triout => trivial

/-! ### An allowed instruction goes on -/

/-- RENDER goes on under the duties: without capacity at once, for a first frame by the seed pass, for a later one by
the blend pass. -/
theorem exec_render_completes {o : RenderOperands} {s : State} (hinv : s.Inv) (h : Allowed (.render o) s) :
    ∃ t, exec (.render o) s = .next t := by
  obtain ⟨hc, hs, hd⟩ := h
  by_cases hcap : CapacityHolds o
  · by_cases hlater : s.seeded = true ∧ s.lastW = o.sourceW ∧ s.lastH = o.sourceH
    · obtain ⟨hseed, hw, hh⟩ := hlater
      obtain ⟨u, hrun, -⟩ := exec_render_later hinv hc hs (hd hcap) hcap hseed hw hh
      exact ⟨_, hrun⟩
    · rw [not_and_or, not_and_or, Bool.not_eq_true] at hlater
      obtain ⟨u, hrun, -⟩ := exec_render_first hc hs (hd hcap) hcap hlater
      exact ⟨_, hrun⟩
  · rw [← tooSmall_eq_false_iff, Bool.not_eq_false, tooSmall_eq_true_iff] at hcap
    exact ⟨_, exec_render_tooSmall hc hs hcap⟩

theorem exec_of_allowed {i : Instr} {s : State} (hinv : s.Inv) (h : Allowed i s) : ∃ t, exec i s = .next t := by
  cases i with
  | reload cfg => exact ⟨_, exec_reload h cfg⟩
  | toggle => exact ⟨_, exec_toggle h⟩
  | status => exact ⟨_, exec_status h⟩
  | render o => exact exec_render_completes hinv h
  | fwdent i g => cases i <;> exact ⟨_, rfl⟩
  | revent i g => cases i <;> exact ⟨_, rfl⟩
  | blendent e r => cases e <;> exact ⟨_, rfl⟩
  | seed frame => exact ⟨_, exec_seed h.1 h.2⟩
  | pushpx x y v =>
    obtain ⟨hseed, hx, hy⟩ := h
    exact ⟨_, exec_pushpx hseed hinv.hist_size hx hy v⟩
  | advance => exact ⟨_, exec_advance h⟩
  | atAge age =>
    obtain ⟨hseed, h1, h5⟩ := h
    exact ⟨_, exec_atAge hseed hinv.hist_size h1 h5⟩
  | pixel ps =>
    obtain ⟨v, hv⟩ := pixelOut_isSome h s.fullbright s.motionCheck s.lut ps
    exact ⟨_, exec_pixel_of_some hv⟩
  | replpx dest stride x y v => exact ⟨_, exec_replpx_next.2 ⟨(holdsBlock_iff_cells ..).2 h, rfl⟩⟩
  | seedpass o =>
    obtain ⟨hs, hd, hseed, hw, hh⟩ := h
    obtain ⟨u, hrun, -⟩ := seedPass_completes hs hd hseed hw hh
    exact ⟨_, exec_seedpass_next.2 ⟨⟨hs, hd⟩, u, hrun, rfl⟩⟩
  | blendpass o =>
    obtain ⟨hs, hd, hseed, hw, hh⟩ := h
    obtain ⟨u, hrun, -⟩ := blendPass_completes hinv hs hd hseed hw hh
    exact ⟨_, exec_blendpass_next.2 ⟨⟨hs, hd⟩, u, hrun, rfl⟩⟩
  | construct | build | clampg | clampr | resize | unpack | pack | blend2 | blend3 | or3 | pure | elig3 | alt2 | twopath
  | triout => exact ⟨_, rfl⟩

theorem exec_next_iff_allowed {s : State} (hinv : s.Inv) (i : Instr) : (∃ t, exec i s = .next t) ↔ Allowed i s :=
  ⟨fun ⟨_, h⟩ => allowed_of_exec h, exec_of_allowed hinv⟩

/-! ### The step -/

/-- No use is allowed or forbidden by the inputs still to come. -/
theorem allowed_setInbox (i : Instr) (s : State) (rest : List Input) : Allowed i (s.setInbox rest) ↔ Allowed i s := by
  cases i <;> exact Iff.rfl

theorem step_command_next_iff {s : State} (hinv : s.Inv) {c : Command} {rest : List Input}
    (hin : s.inbox = .command c :: rest) :
    (∃ t, step s = .next t) ↔ ∃ i, decode c = .ok i ∧ Allowed i s := by
  by_cases hc : c.op.toNat ∈ tableCodes
  · obtain ⟨i, hi⟩ := decode_of_mem_tableCodes hc
    rw [step_of_decoded hin hi, exec_next_iff_allowed (hinv.setInbox rest), allowed_setInbox, hi]
    simp
  · rw [step_of_reserved hin hc, decode_of_not_mem_tableCodes hc]
    simp

theorem step_next_iff {s : State} (hinv : s.Inv) :
    (∃ t, step s = .next t) ↔ ∀ c rest, s.inbox = .command c :: rest → ∃ i, decode c = .ok i ∧ Allowed i s := by
  cases hin : s.inbox with
  | nil => exact ⟨fun _ _ _ h => (nomatch h), fun _ => ⟨s, step_of_empty hin⟩⟩
  | cons input rest =>
    cases input with
    | poke cell ps => exact ⟨fun _ _ _ h => (nomatch h), fun _ => ⟨_, step_of_poke hin⟩⟩
    | command c =>
      rw [step_command_next_iff hinv hin]
      refine ⟨fun h c' rest' he => ?_, fun h => h c rest rfl⟩
      cases he
      exact h

/-- A command that is no allowed use has a reserved code or decodes to a forbidden use. -/
theorem not_allowed_command_iff (c : Command) (s : State) :
    (¬ ∃ i, decode c = .ok i ∧ Allowed i s) ↔
      c.op.toNat ∉ tableCodes ∨ ∃ i, decode c = .ok i ∧ ¬ Allowed i s := by
  by_cases hc : c.op.toNat ∈ tableCodes
  · obtain ⟨i, hi⟩ := decode_of_mem_tableCodes hc
    simp [hi, hc]
  · simp [decode_of_not_mem_tableCodes hc, hc]

/-- Settles O7: a step goes on exactly where every command that is next is an allowed use, and is refused elsewhere. -/
theorem refusalsAreExactlyTheForbiddenUses : Obligations.RefusalsAreExactlyTheForbiddenUses := by
  intro s hinv
  refine ⟨?_, step_next_iff hinv⟩
  rw [refused_iff_not_next, step_next_iff hinv]
  simp only [not_forall, ← not_allowed_command_iff, exists_prop]

end Sys2Proof.Machine
